-- ==== Sys2Proof/Word.lean ====
section
/-! DEFINITION. The word types of the SBQ unit: what the spec treats as bit vectors (00_scope R9, 30_encoding R75, R83). -/

namespace Sys2Proof

/-- One storage unit of MEM or of a scratchpad row (00_scope R5, glossary "storage unit"). -/
abbrev Byte := BitVec 8

/-- The CMD word of a packet (R75). -/
abbrev CmdWord := BitVec 32

/-- An ARG1 or ARG2 word of a packet, and a MEM byte address (R75, R50). -/
abbrev ArgWord := BitVec 64

/-- A local address LA (R83). -/
abbrev LocalWord := BitVec 32

end Sys2Proof
end

