-- ==== Sys2Proof/Syntax.lean ====
section
/-! DEFINITION. Commands as syntax: the packet (30_encoding R75) and one constructor per row of the opcode map (R88). -/

namespace Sys2Proof

/-- A command packet: three words, pushed as a unit (R75). -/
structure Packet where
  cmd : CmdWord
  arg1 : ArgWord
  arg2 : ArgWord
  deriving DecidableEq, Repr

/-- The ROLE field of format P (R78): load, compute, store, and the illegal value 3. -/
inductive Role where
  | ld | ex | st | reserved
  deriving DecidableEq, Repr

/-- The POLICY field of format Q (R79). -/
inductive Policy where
  | wide | packed
  deriving DecidableEq, Repr

/-- One constructor per row of the opcode map (R88). Each holds the fields of its CMD format (R77 to R80) and the two
ARG words whole, since a fault records even their ignored bits (R82). -/
inductive Instr where
  | cfgprec (role : Role) (log2w : BitVec 3) (arg1 arg2 : ArgWord)
  | cfgacc (shift : BitVec 6) (relu : Bool) (policy : Policy) (arg1 arg2 : ArgWord)
  | mvin (arg1 arg2 : ArgWord)
  | mvout (arg1 arg2 : ArgWord)
  | preload (arg1 arg2 : ArgWord)
  | computePre (arg1 arg2 : ArgWord)
  | computeAcc (arg1 arg2 : ArgWord)
  | pack (k : BitVec 16) (lw : BitVec 2) (arg1 arg2 : ArgWord)
  | unpack (k : BitVec 16) (lw : BitVec 2) (arg1 arg2 : ArgWord)
  | fence (arg1 arg2 : ArgWord)
  | flush (arg1 arg2 : ArgWord)
  deriving DecidableEq, Repr

/-- The mnemonics of the opcode map (R88). -/
inductive Mnemonic where
  | cfgprec | cfgacc | mvin | mvout | preload | computePre | computeAcc | pack | unpack | fence | flush
  deriving DecidableEq, Repr

/-- The row of the opcode map an instruction belongs to (R88). -/
def Instr.mnemonic : Instr → Mnemonic
  | .cfgprec _ _ _ _ => .cfgprec
  | .cfgacc _ _ _ _ _ => .cfgacc
  | .mvin _ _ => .mvin
  | .mvout _ _ => .mvout
  | .preload _ _ => .preload
  | .computePre _ _ => .computePre
  | .computeAcc _ _ => .computeAcc
  | .pack _ _ _ _ => .pack
  | .unpack _ _ _ _ => .unpack
  | .fence _ _ => .fence
  | .flush _ _ => .flush

end Sys2Proof
end

