-- ==== Sys2Proof/WellFormed.lean ====
section
/-! DEFINITION. Which instructions are legal encodings (30_encoding R89, R90). -/

namespace Sys2Proof

/-- Legal as an encoding: a CFGPREC's ROLE is not 3 (R89). Every other field value that is encodable decodes and is
checked by the command's own rule (R90), so no other instruction has a check here. -/
def Instr.wellFormed : Instr → Bool
  | .cfgprec role _ _ _ => role ≠ .reserved
  | .cfgacc _ _ _ _ _ => true
  | .mvin _ _ => true
  | .mvout _ _ => true
  | .preload _ _ => true
  | .computePre _ _ => true
  | .computeAcc _ _ => true
  | .pack _ _ _ _ => true
  | .unpack _ _ _ _ => true
  | .fence _ _ => true
  | .flush _ _ => true

end Sys2Proof
end

