-- ==== Sys2Proof/Decode.lean ====
section
/-! DEFINITION. Decoding a packet by the opcode map (30_encoding R88, R89), and the encoder written from the same
formats (R77 to R80). -/

namespace Sys2Proof

/-- Why a CMD word is illegal (R89). Each is the fault ILLEGAL_COMMAND. -/
inductive DecodeError where
  /-- OPCODE is not in the opcode map. -/
  | unassignedOpcode
  /-- OPCODE is assigned and a reserved CMD bit is 1. -/
  | reservedBitSet
  /-- CFGPREC with ROLE = 3. -/
  | reservedRole
  deriving DecidableEq, Repr

/-- A row of the opcode map: it matches a CMD word when `cmd &&& mask = pattern` (R88). -/
structure OpcodeRow where
  mnemonic : Mnemonic
  pattern : CmdWord
  mask : CmdWord
  deriving DecidableEq, Repr

/-- The opcode map of R88, in its order. -/
def opcodeTable : List OpcodeRow :=
  [ ⟨.cfgprec,    0x00000001#32, 0xFFFFE0FF#32⟩,
    ⟨.cfgacc,     0x00000002#32, 0xFFFF00FF#32⟩,
    ⟨.mvin,       0x00000010#32, 0xFFFFFFFF#32⟩,
    ⟨.mvout,      0x00000011#32, 0xFFFFFFFF#32⟩,
    ⟨.preload,    0x00000020#32, 0xFFFFFFFF#32⟩,
    ⟨.computePre, 0x00000021#32, 0xFFFFFFFF#32⟩,
    ⟨.computeAcc, 0x00000022#32, 0xFFFFFFFF#32⟩,
    ⟨.pack,       0x00000030#32, 0x0000FCFF#32⟩,
    ⟨.unpack,     0x00000031#32, 0x0000FCFF#32⟩,
    ⟨.fence,      0x00000040#32, 0xFFFFFFFF#32⟩,
    ⟨.flush,      0x00000041#32, 0xFFFFFFFF#32⟩ ]

/-- `(CMD & mask) == match` (R88). -/
def OpcodeRow.selects (row : OpcodeRow) (cmd : CmdWord) : Bool := cmd &&& row.mask == row.pattern

/-- The row a CMD word selects, if any (R88, R89). -/
def selectRow (cmd : CmdWord) : Option OpcodeRow := opcodeTable.find? (·.selects cmd)

/-- OPCODE, CMD[7:0] (R76). -/
def opcodeOf (cmd : CmdWord) : BitVec 8 := cmd.extractLsb' 0 8

/-- ROLE from CMD[9:8] (R78). -/
def Role.ofBits (b : BitVec 2) : Role :=
  if b = 0#2 then .ld else if b = 1#2 then .ex else if b = 2#2 then .st else .reserved

/-- The ROLE field of a role (R78). -/
def Role.bits : Role → BitVec 2
  | .ld => 0#2
  | .ex => 1#2
  | .st => 2#2
  | .reserved => 3#2

/-- POLICY from CMD[15] (R79). -/
def Policy.ofBit (b : Bool) : Policy := if b then .packed else .wide

/-- The POLICY bit of a policy (R79). -/
def Policy.bit : Policy → Bool
  | .wide => false
  | .packed => true

/-- The instruction of the row a packet selects, its fields pulled out of CMD by the row's format (R77 to R80). -/
def readFields (m : Mnemonic) (p : Packet) : Instr :=
  match m with
  | .cfgprec => .cfgprec (Role.ofBits (p.cmd.extractLsb' 8 2)) (p.cmd.extractLsb' 10 3) p.arg1 p.arg2
  | .cfgacc => .cfgacc (p.cmd.extractLsb' 8 6) (p.cmd.getLsbD 14) (Policy.ofBit (p.cmd.getLsbD 15)) p.arg1 p.arg2
  | .mvin => .mvin p.arg1 p.arg2
  | .mvout => .mvout p.arg1 p.arg2
  | .preload => .preload p.arg1 p.arg2
  | .computePre => .computePre p.arg1 p.arg2
  | .computeAcc => .computeAcc p.arg1 p.arg2
  | .pack => .pack (p.cmd.extractLsb' 16 16) (p.cmd.extractLsb' 8 2) p.arg1 p.arg2
  | .unpack => .unpack (p.cmd.extractLsb' 16 16) (p.cmd.extractLsb' 8 2) p.arg1 p.arg2
  | .fence => .fence p.arg1 p.arg2
  | .flush => .flush p.arg1 p.arg2

/-- Why a CMD word that selects no row is illegal (R89). -/
def decodeFailure (cmd : CmdWord) : DecodeError :=
  if opcodeTable.any (fun row => opcodeOf row.pattern == opcodeOf cmd) then .reservedBitSet else .unassignedOpcode

/-- `decode` of R89: total, every packet is one instruction or is illegal by name (R91). -/
def decode (p : Packet) : Except DecodeError Instr :=
  match selectRow p.cmd with
  | none => .error (decodeFailure p.cmd)
  | some row =>
    let i := readFields row.mnemonic p
    if i.wellFormed then .ok i else .error .reservedRole

/-- A format N word (R77). -/
def formatN (opcode : BitVec 8) : CmdWord := 0#24 ++ opcode

/-- A format P word (R78). -/
def formatP (log2w : BitVec 3) (role : BitVec 2) : CmdWord := 0#19 ++ log2w ++ role ++ 0x01#8

/-- A format Q word (R79). -/
def formatQ (policy relu : Bool) (shift : BitVec 6) : CmdWord :=
  0#16 ++ BitVec.ofBool policy ++ BitVec.ofBool relu ++ shift ++ 0x02#8

/-- A format C word (R80). -/
def formatC (k : BitVec 16) (lw : BitVec 2) (opcode : BitVec 8) : CmdWord := k ++ 0#6 ++ lw ++ opcode

/-- The packet of an instruction (R77 to R81). -/
def encode : Instr → Packet
  | .cfgprec role log2w a b => ⟨formatP log2w role.bits, a, b⟩
  | .cfgacc shift relu policy a b => ⟨formatQ policy.bit relu shift, a, b⟩
  | .mvin a b => ⟨formatN 0x10#8, a, b⟩
  | .mvout a b => ⟨formatN 0x11#8, a, b⟩
  | .preload a b => ⟨formatN 0x20#8, a, b⟩
  | .computePre a b => ⟨formatN 0x21#8, a, b⟩
  | .computeAcc a b => ⟨formatN 0x22#8, a, b⟩
  | .pack k lw a b => ⟨formatC k lw 0x30#8, a, b⟩
  | .unpack k lw a b => ⟨formatC k lw 0x31#8, a, b⟩
  | .fence a b => ⟨formatN 0x40#8, a, b⟩
  | .flush a b => ⟨formatN 0x41#8, a, b⟩

/-- The packet whose bits are `w`: CMD in bits 31..0, ARG1 in bits 95..32, ARG2 in bits 159..96, every bit from `nbits`
up taken as 0. DESIGN CHOICE (log 16): the numbering; a packet never stands in a byte memory (20_memory R54, R69). -/
def packetOfBits (nbits w : Nat) : Packet :=
  let v := w % 2 ^ nbits
  ⟨BitVec.ofNat 32 v, BitVec.ofNat 64 (v >>> 32), BitVec.ofNat 64 (v >>> 96)⟩

/-- The instruction the decoder reads from an instruction whose bits are `w`. -/
def decodeTableWord (nbits w : Nat) : Option Instr :=
  match decode (packetOfBits nbits w) with
  | .ok i => some i
  | .error _ => none

end Sys2Proof
end

