-- ==== Sys2Proof/Config.lean ====
section
/-! DEFINITION. The implementation parameters a model of SBQ takes as arguments (00_scope R5). -/

namespace Sys2Proof

/-- The six parameters of R5. `accBits = none` is the unbounded accumulator. -/
structure Params where
  /-- DIM: a tile is DIM x DIM elements. -/
  dim : Nat
  /-- SP_ROWS: scratchpad rows, each of DIM bytes. -/
  spRows : Nat
  /-- ACC_ROWS: accumulator rows, each of DIM elements. -/
  accRows : Nat
  /-- ACC_BITS: width of an accumulator element, or none. -/
  accBits : Option Nat
  /-- MEM_SIZE: bytes of host memory. -/
  memSize : Nat
  /-- QDEPTH: depth of the command queue. -/
  qdepth : Nat
  deriving DecidableEq, Repr

/-- The constraints column of R5's table. -/
abbrev Params.Valid (p : Params) : Prop :=
  1 ≤ p.dim ∧ p.dim ≤ p.spRows ∧ p.dim ≤ p.accRows ∧ p.accBits.all (fun b => decide (8 < b)) = true
    ∧ 1 ≤ p.memSize ∧ p.memSize ≤ 2 ^ 64 ∧ 1 ≤ p.qdepth

/-- The values of R5's last column, those of 95_test_vectors.md. DESIGN CHOICE (unsafe, log 1): the parameters
`State.reset` has. Statements about every state hold for every parameter. -/
def Params.vectors : Params :=
  { dim := 4, spRows := 64, accRows := 16, accBits := some 32, memSize := 65536, qdepth := 8 }

end Sys2Proof
end

