-- ==== Sys2Proof/Machine/State.lean ====
section
/-! DEFINITION. The state of an SBQ system (10_state R20): block state, host memory, command queue, host state, and the
model's own fields (parameters, the interleaving still to come, the host's replies). -/

namespace Sys2Proof.Machine

/-- What stops the machine with a fault: nothing. Every fault of SBQ is a precise halt that the block records and that
leaves a next state (60_exceptions R226 to R228), so this closed type has no constructor, no one raises it, and leaving
it empty is safe (log 13). -/
inductive Fault where
  deriving DecidableEq, Repr

/-- What the model refuses. -/
inductive Refusal where
  /-- An instruction without a meaning. No arm of `exec` raises it. Safe: the model stops. -/
  | notModelled (mnemonic : String)
  /-- Raised by the host actions `readMem` and `writeMem` at an address not below MEM_SIZE: not a behaviour of SBQ, the
  model refuses the host program (60_exceptions R240, 93 U12). Safe: the model stops. -/
  | hostAddressOutOfRange
  deriving DecidableEq, Repr

/-- The fault causes (60_exceptions R221). Codes 15 to 255 are never recorded, so they have no name. -/
inductive Cause where
  | none | illegalCommand | configViolation | configNotSet | illegalAddress | rowOutOfRange | memOutOfRange
  | countOutOfRange | noDestination | noPreloadedWeight | noResidentWeight | unusedWeight | preloadPending
  | uninitRead | accOverflow
  deriving DecidableEq, Repr

/-- A precision register CFG_LD, CFG_EX or CFG_ST (R29). -/
structure PrecisionReg where
  valid : Bool
  log2w : BitVec 2
  rowWidth : BitVec 16
  deriving DecidableEq, Repr

/-- The accumulation register CFG_Q (R30). -/
structure QuantReg where
  valid : Bool
  shift : BitVec 6
  relu : Bool
  policy : Policy
  deriving DecidableEq, Repr

/-- A DIM x DIM array of signed integers, as its list of rows (PENDW, WREG: R31, R33). -/
abbrev Tile := List (List Int)

/-- Host memory: the bytes that are not 0, by rising address (`Memory.wf`). An unlisted address reads 0. DESIGN CHOICE
(unsafe, log 3): the spec makes MEM's start contents an input of the run (R28). -/
abbrev Memory := List Host.Cell

/-- A tile storage: its defined cells by (row, column), in rising row-major order. An unlisted cell is `undef` (R27). -/
abbrev CellStore (α : Type) := List ((Nat × Nat) × α)

/-- The MEM bytes [base, base + size) of an outstanding command (20_memory R65). -/
structure Footprint where
  base : Nat
  size : Nat
  deriving DecidableEq, Repr

/-- The host actions (60_exceptions R240). -/
inductive HostAction where
  | push (p : Packet)
  | readMem (a : ArgWord)
  | writeMem (a : ArgWord) (v : Byte)
  | readStatus
  | readFarg1
  | readFarg2
  | fence
  | reset
  deriving DecidableEq, Repr

/-- One turn of an interleaving (R242): a block step, or the host's next action. -/
inductive Event where
  | block
  | host (a : HostAction)
  deriving DecidableEq, Repr

/-- The state (R20). -/
structure State where
  /-- The parameters (00_scope R5). The model's own field: no step changes it (log 1). -/
  params : Params
  /-- SP, scratchpad bytes (R24). -/
  sp : CellStore Byte
  /-- ACC, accumulator elements (R25, R26). -/
  acc : CellStore Int
  /-- MEM (R28). -/
  mem : Memory
  /-- CFG_LD (R29). -/
  cfgLd : PrecisionReg
  /-- CFG_EX (R29). -/
  cfgEx : PrecisionReg
  /-- CFG_ST (R29). -/
  cfgSt : PrecisionReg
  /-- CFG_Q (R30). -/
  cfgQ : QuantReg
  /-- PENDW (R31). -/
  pendw : Tile
  /-- PENDW_VALID (R31). -/
  pendwValid : Bool
  /-- DEST (R32). -/
  dest : LocalWord
  /-- DEST_VALID (R32). -/
  destValid : Bool
  /-- WREG (R33). -/
  wreg : Tile
  /-- WVALID (R33). -/
  wregValid : Bool
  /-- STATUS.HALTED (R34). -/
  halted : Bool
  /-- STATUS.CAUSE (R34). -/
  cause : Cause
  /-- STATUS.FCMD (R34). -/
  fcmd : CmdWord
  /-- FARG1 (R35). -/
  farg1 : ArgWord
  /-- FARG2 (R35). -/
  farg2 : ArgWord
  /-- Q, head first (R36). -/
  queue : List Packet
  /-- HOSTWAIT (R37). -/
  hostWait : Bool
  /-- OUTSTANDING (R37, 20_memory R65). -/
  outstanding : List Footprint
  /-- UNFENCED (R37). -/
  unfenced : Bool
  /-- The turns still to come, next one first (60_exceptions R242). The model's own field (log 5). -/
  events : List Event
  /-- What the host's reads returned, newest first (60_exceptions R240). The model's own field (log 8). -/
  replies : List (BitVec 64)
  deriving DecidableEq, Repr

/-- A precision register after reset. LOG2W and ROW_WIDTH 0: DESIGN CHOICE (unsafe, log 2). -/
def resetPrecision : PrecisionReg := { valid := false, log2w := 0, rowWidth := 0 }

/-- CFG_Q after reset. SHIFT 0, RELU 0, POLICY WIDE: DESIGN CHOICE (unsafe, log 2). -/
def resetQuant : QuantReg := { valid := false, shift := 0, relu := false, policy := .wide }

/-- PENDW and WREG after reset, all zero: DESIGN CHOICE (unsafe, log 2). -/
def resetTile (p : Params) : Tile := List.replicate p.dim (List.replicate p.dim 0)

/-- The system at the start of a run with parameters `p`, MEM all zero, and no turn to come (R38, 60_exceptions R243). -/
def State.initial (p : Params) : State :=
  { params := p
    sp := []
    acc := []
    mem := []
    cfgLd := resetPrecision
    cfgEx := resetPrecision
    cfgSt := resetPrecision
    cfgQ := resetQuant
    pendw := resetTile p
    pendwValid := false
    dest := 0
    destValid := false
    wreg := resetTile p
    wregValid := false
    halted := false
    cause := .none
    fcmd := 0
    farg1 := 0
    farg2 := 0
    queue := []
    hostWait := false
    outstanding := []
    unfenced := false
    events := []
    replies := [] }

/-- The machine right after reset (R38), with the parameters of 95_test_vectors.md (log 1). -/
def State.reset : State := State.initial Params.vectors

end Sys2Proof.Machine
end

