-- ==== Sys2Proof/Machine/Ops.lean ====
section
/-! DEFINITION. The named operations over storage, registers and the queue, fault entry and block reset
(10_state, 20_memory, 60_exceptions, 70_reset_and_hazards). -/

namespace Sys2Proof.Machine

/-! ### Association lists in rising key order -/

/-- The value under key `k`, if any. -/
def lookupKey {κ α : Type} [DecidableEq κ] (k : κ) : List (κ × α) → Option α
  | [] => none
  | c :: l => if c.1 = k then some c.2 else lookupKey k l

/-- Put `v` under key `k`, before the first larger key. -/
def insertKey {κ α : Type} [DecidableEq κ] (before : κ → κ → Bool) (k : κ) (v : α) : List (κ × α) → List (κ × α)
  | [] => [(k, v)]
  | c :: l =>
    if c.1 = k then (k, v) :: l
    else if before k c.1 then (k, v) :: c :: l
    else c :: insertKey before k v l

/-- Remove key `k`. -/
def eraseKey {κ α : Type} [DecidableEq κ] (k : κ) : List (κ × α) → List (κ × α)
  | [] => []
  | c :: l => if c.1 = k then eraseKey k l else c :: eraseKey k l

/-- Keys strictly rise along the list. -/
abbrev RisingKeys {κ α : Type} (before : κ → κ → Bool) (l : List (κ × α)) : Prop :=
  l.Pairwise (fun x y => before x.1 y.1 = true)

/-- The order of MEM addresses. -/
def addrBefore (a b : Nat) : Bool := decide (a < b)

/-- Row-major order of cells (20_memory R53). -/
def cellBefore (a b : Nat × Nat) : Bool := decide (a.1 < b.1) || (decide (a.1 = b.1) && decide (a.2 < b.2))

/-! ### MEM (10_state R28) -/

/-- MEM[a]. An unlisted address reads 0 (log 3). -/
def Memory.read (m : Memory) (a : Nat) : Byte := (lookupKey a m).getD 0

/-- MEM[a] <- v, keeping the canonical form. -/
def Memory.write (m : Memory) (a : Nat) (v : Byte) : Memory :=
  if v = 0 then eraseKey a m else insertKey addrBefore a v m

/-- MemWrite(a, n, f 0, ..., f (n-1)) (00_scope R10). -/
def Memory.writeRange (m : Memory) (a : Nat) (f : Nat → Byte) : Nat → Memory
  | 0 => m
  | n + 1 => (Memory.writeRange m a f n).write (a + n) (f n)

/-- The canonical form: addresses strictly rise, and no listed byte is what an unlisted address reads as. -/
abbrev Memory.wf (m : Memory) : Prop := RisingKeys addrBefore m ∧ ∀ c ∈ m, c.2 ≠ 0

/-! ### SP and ACC (10_state R24 to R27) -/

/-- The cell at (row, column), `none` for undef (R27). -/
def CellStore.cell {α : Type} (st : CellStore α) (r c : Nat) : Option α := lookupKey (r, c) st

/-- Store one cell. -/
def CellStore.put {α : Type} (st : CellStore α) (r c : Nat) (v : α) : CellStore α := insertKey cellBefore (r, c) v st

/-- Store columns 0 .. n-1 of row `r`. -/
def CellStore.putRow {α : Type} (st : CellStore α) (r : Nat) (f : Nat → α) : Nat → CellStore α
  | 0 => st
  | n + 1 => (CellStore.putRow st r f n).put r n (f n)

/-- Store columns 0 .. n-1 of rows r .. r+m-1. -/
def CellStore.putGrid {α : Type} (st : CellStore α) (r : Nat) (f : Nat → Nat → α) (n : Nat) : Nat → CellStore α
  | 0 => st
  | m + 1 => (CellStore.putGrid st r f n m).putRow (r + m) (f m) n

/-- The canonical form: cells strictly rise, and every cell lies in `rows` rows of `cols` columns. -/
abbrev CellStore.wf {α : Type} (rows cols : Nat) (st : CellStore α) : Prop :=
  RisingKeys cellBefore st ∧ ∀ c ∈ st, c.1.1 < rows ∧ c.1.2 < cols

/-- Byte b of scratchpad row r (R24). -/
def State.spByte (s : State) (r b : Nat) : Option Byte := s.sp.cell r b

/-- Element j of accumulator row r (R25). -/
def State.accElem (s : State) (r j : Nat) : Option Int := s.acc.cell r j

/-- MEM[a] (R28). -/
def State.memByte (s : State) (a : Nat) : Byte := s.mem.read a

/-- Element [i][j] of a tile. -/
def tileAt (t : Tile) (i j : Nat) : Int := (t.getD i []).getD j 0

/-! ### Checks and row-major collection (00_scope R10, 60_exceptions R222) -/

/-- `require c else F` (00_scope R10). -/
def require (c : Prop) [Decidable c] (f : Cause) : Except Cause Unit := if c then .ok () else .error f

/-- `f 0, ..., f (n-1)` in that order: the first failure is the one reported (R222). -/
def gather {α : Type} (f : Nat → Except Cause α) : Nat → Except Cause (List α)
  | 0 => .ok []
  | n + 1 => do
    let xs ← gather f n
    let x ← f n
    .ok (xs ++ [x])

/-- `f i j` for i < m, j < n in row-major order (R222). -/
def gatherGrid {α : Type} (f : Nat → Nat → Except Cause α) (m n : Nat) : Except Cause (List (List α)) :=
  gather (fun i => gather (f i) n) m

/-- A read of an SP byte by a command: undef raises UNINIT_READ (10_state R27). -/
def readSp (s : State) (r b : Nat) : Except Cause Byte :=
  match s.spByte r b with
  | some v => .ok v
  | none => .error .uninitRead

/-- A read of an ACC element by a command: undef raises UNINIT_READ (10_state R27). -/
def readAcc (s : State) (r j : Nat) : Except Cause Int :=
  match s.accElem r j with
  | some v => .ok v
  | none => .error .uninitRead

/-! ### State writes -/

/-- SP <- v. -/
def State.setSp (s : State) (v : CellStore Byte) : State := { s with sp := v }

/-- ACC <- v. -/
def State.setAcc (s : State) (v : CellStore Int) : State := { s with acc := v }

/-- MEM <- v. -/
def State.setMem (s : State) (v : Memory) : State := { s with mem := v }

/-- CFG_LD <- v (42_config R160). -/
def State.setCfgLd (s : State) (v : PrecisionReg) : State := { s with cfgLd := v }

/-- CFG_EX <- v (42_config R160). -/
def State.setCfgEx (s : State) (v : PrecisionReg) : State := { s with cfgEx := v }

/-- CFG_ST <- v (42_config R160). -/
def State.setCfgSt (s : State) (v : PrecisionReg) : State := { s with cfgSt := v }

/-- CFG_Q <- v (42_config R161). -/
def State.setCfgQ (s : State) (v : QuantReg) : State := { s with cfgQ := v }

/-- PENDW <- t, PENDW_VALID <- 1 (43_matmul R171, PreloadWeights). -/
def State.setPending (s : State) (t : Tile) : State := { s with pendw := t, pendwValid := true }

/-- PENDW_VALID <- 0 (43_matmul R171, PreloadZeros). -/
def State.clearPending (s : State) : State := { s with pendwValid := false }

/-- DEST <- la, DEST_VALID <- 1 (43_matmul R171). -/
def State.setDest (s : State) (la : LocalWord) : State := { s with dest := la, destValid := true }

/-- DEST_VALID <- 0 (43_matmul R173). -/
def State.consumeDest (s : State) : State := { s with destValid := false }

/-- WREG <- w, WVALID <- 1, PENDW_VALID <- 0, DEST_VALID <- 0 (43_matmul R172). -/
def State.makeResident (s : State) (w : Tile) : State :=
  { s with wreg := w, wregValid := true, pendwValid := false, destValid := false }

/-- Q <- q. -/
def State.setQueue (s : State) (q : List Packet) : State := { s with queue := q }

/-- OUTSTANDING <- o. -/
def State.setOutstanding (s : State) (o : List Footprint) : State := { s with outstanding := o }

/-- HOSTWAIT <- 1 (45_sync R211). -/
def State.startWait (s : State) : State := { s with hostWait := true }

/-- HOSTWAIT <- 0, OUTSTANDING emptied: the completion of a host fence (45_sync R211). -/
def State.completeFence (s : State) : State := { s with hostWait := false, outstanding := [] }

/-- UNFENCED <- UNFENCED or b: the bit is sticky (10_state R37). -/
def State.noteRace (s : State) (b : Bool) : State := { s with unfenced := s.unfenced || b }

/-- The turns still to come. -/
def State.setEvents (s : State) (es : List Event) : State := { s with events := es }

/-- A value returned to the host (60_exceptions R240). -/
def State.reply (s : State) (v : BitVec 64) : State := { s with replies := v :: s.replies }

/-! ### Fault entry and reset -/

/-- `fault_entry(c, CMD, ARG1, ARG2)` (60_exceptions R227). The rest of Q is kept, control goes nowhere. -/
def State.faultEntry (s : State) (c : Cause) (p : Packet) : State :=
  { s with halted := true, cause := c, fcmd := p.cmd, farg1 := p.arg1, farg2 := p.arg2 }

/-- The block reset (70_reset R250 to R254, 10_state R38), the only way out of a fault: SBQ has no trap return
(60_exceptions R229). MEM, UNFENCED and the model's own fields stay. -/
def State.blockReset (s : State) : State :=
  { State.initial s.params with mem := s.mem, unfenced := s.unfenced, events := s.events, replies := s.replies }

/-- How a command ends: with all its writes, or with none of them and the fault entry (60_exceptions R226, R227). The
packet is the instruction's own encoding, which is the packet it was decoded from (DEDUCED, log 11). -/
def settle (i : Instr) (s : State) (r : Except Cause State) : Host.Outcome State Fault Refusal :=
  match r with
  | .ok t => .next t
  | .error c => .next (s.faultEntry c (encode i))

/-- Take the head of Q (60_exceptions R241): the packet and the state without it. None while the block is idle. -/
def State.fetch (s : State) : Option (Packet × State) :=
  if s.halted then none
  else match s.queue with
    | [] => none
    | p :: rest => some (p, s.setQueue rest)

/-- `s` with packet `p` at the head of Q, the block running and the next turn its own, so that the next step fetches and
runs exactly `p`. -/
def State.placeHead (s : State) (p : Packet) : State :=
  { s with queue := p :: s.queue.tail, halted := false, events := [] }

end Sys2Proof.Machine
end

