-- ==== Sys2Proof/Machine/Operands.lean ====
section
/-! DEFINITION. The operand forms: local addresses (30_encoding R83 to R85), MEM addresses (R86) and the element widths
of the precision registers (10_state R29). -/

namespace Sys2Proof.Machine

/-- The two local storages a local address names (R83). -/
inductive Space where
  | sp | acc
  deriving DecidableEq, Repr

/-- The fields of a local address other than SENTINEL (R83). -/
structure LocalAddr where
  space : Space
  accum : Bool
  rsv : Bool
  row : Nat
  deriving DecidableEq, Repr

/-- SENTINEL, the all-ones local address (R84). -/
def sentinel : LocalWord := 0xFFFFFFFF#32

/-- The LA of an ARG word, its bits [31:0] (R81). Bits [63:32] are ignored (R82). -/
def laOf (arg : ArgWord) : LocalWord := arg.extractLsb' 0 32

/-- `decode_la` (R83): none for SENTINEL. -/
def decodeLa (la : LocalWord) : Option LocalAddr :=
  if la = sentinel then none
  else some
    { space := if la.getLsbD 31 then .acc else .sp
      accum := la.getLsbD 30
      rsv := la.getLsbD 29
      row := (la.extractLsb' 0 29).toNat }

/-- SP_ROWS or ACC_ROWS (R85). -/
def rowsOf (p : Params) : Space → Nat
  | .sp => p.spRows
  | .acc => p.accRows

/-- `check_la(la, allowed, n)` (R85). -/
def checkLa (p : Params) (la : LocalWord) (allowed : List (Space × Bool)) (n : Nat) : Except Cause LocalAddr :=
  match decodeLa la with
  | none => .error .illegalAddress
  | some a => do
    require (a.rsv = false) .illegalAddress
    require ((a.space, a.accum) ∈ allowed) .illegalAddress
    require (a.row + n ≤ rowsOf p a.space) .rowOutOfRange
    .ok a

/-- A MEM address operand: ARG1 unsigned, not scaled (R86). -/
def memAddr (arg : ArgWord) : Nat := arg.toNat

/-- A MEM access of n bytes at a is in range: no wrap-around (20_memory R51). -/
abbrev MemInRange (p : Params) (a n : Nat) : Prop := a + n ≤ p.memSize

/-- W = 2^LOG2W of a precision register (10_state R29). -/
def PrecisionReg.width (r : PrecisionReg) : Nat := 2 ^ r.log2w.toNat

/-- W = 2^LW of a format C command (R87). -/
def widthOfLw (lw : BitVec 2) : Nat := 2 ^ lw.toNat

/-- Plain SP addresses. -/
def plainSp : List (Space × Bool) := [(.sp, false)]

/-- Plain ACC addresses. -/
def plainAcc : List (Space × Bool) := [(.acc, false)]

/-- ACC addresses with or without the accumulate bit. -/
def anyAcc : List (Space × Bool) := [(.acc, false), (.acc, true)]

/-- SP addresses with or without the accumulate bit. -/
def anySp : List (Space × Bool) := [(.sp, false), (.sp, true)]

end Sys2Proof.Machine
end

