-- ==== Sys2Proof/Machine/Configure.lean ====
section
/-! DEFINITION. The configuration commands (42_config R160, R161). -/

namespace Sys2Proof.Machine

/-- CFG[role] <- v (R160): CFG[0] = CFG_LD, CFG[1] = CFG_EX, CFG[2] = CFG_ST. -/
def State.setCfg (s : State) (role : Role) (v : PrecisionReg) : State :=
  match role with
  | .ld => s.setCfgLd v
  | .ex => s.setCfgEx v
  | .st => s.setCfgSt v
  | .reserved => s

/-- ROW_WIDTH, ARG1[15:0] of CFGPREC (30_encoding R81). -/
def rowWidthOf (arg1 : ArgWord) : BitVec 16 := arg1.extractLsb' 0 16

/-- R160's pseudocode. ROLE = 3 never leaves decode, and is ILLEGAL_COMMAND here too (30_encoding R89, log 15). -/
def runCfgprec (role : Role) (log2w : BitVec 3) (arg1 : ArgWord) (s : State) : Except Cause State := do
  require (role ≠ .reserved) .illegalCommand
  require (log2w.toNat ≤ 3) .configViolation
  require ((rowWidthOf arg1).toNat = s.params.dim) .configViolation
  require ((s.params.dim * 2 ^ log2w.toNat) % 8 = 0) .configViolation
  .ok (s.setCfg role { valid := true, log2w := log2w.setWidth 2, rowWidth := rowWidthOf arg1 })

/-- CFGPREC (R160). -/
def execCfgprec (role : Role) (log2w : BitVec 3) (arg1 arg2 : ArgWord) (s : State) :
    Host.Outcome State Fault Refusal :=
  settle (.cfgprec role log2w arg1 arg2) s (runCfgprec role log2w arg1 s)

/-- CFGACC (R161). Every field value is legal and both ARG words are ignored. -/
def execCfgacc (shift : BitVec 6) (relu : Bool) (policy : Policy) (_arg1 _arg2 : ArgWord) (s : State) :
    Host.Outcome State Fault Refusal :=
  .next (s.setCfgQ { valid := true, shift := shift, relu := relu, policy := policy })

end Sys2Proof.Machine
end

