-- ==== Sys2Proof/Machine/Codec.lean ====
section
/-! DEFINITION. The sub-byte codec's pure functions (40_codec R100 to R109). Every width `w` is one of 1, 2, 4, 8 (00_scope R6). -/

namespace Sys2Proof.Machine

/-- `slots(W) = 8 / W` (00_scope R11). -/
def slots (w : Nat) : Nat := 8 / w

/-- `rowbytes(W) = DIM·W / 8` (00_scope R11). -/
def rowBytes (p : Params) (w : Nat) : Nat := p.dim * w / 8

/-- `ceil(K·W / 8)` (00_scope R8, 40_codec R107). -/
def packedLen (k w : Nat) : Nat := (k * w + 7) / 8

/-- `clamp_W` (R100). -/
def clamp (w : Nat) (v : Int) : Int := max (-2 ^ (w - 1)) (min (2 ^ (w - 1) - 1) v)

/-- `enc_W` (R101). -/
def enc (w : Nat) (v : Int) : Nat := (v % 2 ^ w).toNat

/-- `dec_W` (R102). -/
def dec (w f : Nat) : Int := ((f ^^^ 2 ^ (w - 1) : Nat) : Int) - 2 ^ (w - 1)

/-- `wrap_W` (R103). -/
def wrap (w : Nat) (x : Int) : Int := dec w (x % 2 ^ w).toNat

/-- `field_get` (R104). -/
def fieldGet (byte : Byte) (s w : Nat) : Nat := (byte.toNat >>> (s * w)) &&& (2 ^ w - 1)

/-- `field_set` (R105). -/
def fieldSet (byte : Byte) (s w u : Nat) : Byte :=
  (byte &&& ~~~ (BitVec.ofNat 8 (2 ^ w - 1) <<< (s * w))) ||| (BitVec.ofNat 8 u <<< (s * w))

/-- `unpack_signed` (R106). -/
def unpackSigned (byte : Byte) (s w : Nat) : Int := dec w (fieldGet byte s w)

/-- The loop of `pack_seq` after its first `j` fields (R107). -/
def packUpTo (w : Nat) (v : List Int) : Nat → List Byte
  | 0 => List.replicate (packedLen v.length w) 0
  | j + 1 =>
    (packUpTo w v j).modify (j / slots w) (fun b => fieldSet b (j % slots w) w (enc w (clamp w (v.getD j 0))))

/-- `pack_seq` (R107). -/
def packSeq (w : Nat) (v : List Int) : List Byte := packUpTo w v v.length

/-- `unpack_seq` (R108). -/
def unpackSeq (w : Nat) (bytes : List Byte) (k : Nat) : List Int :=
  (List.range k).map (fun j => unpackSigned (bytes.getD (j / slots w) 0) (j % slots w) w)

/-- The byte whose slot `t` is `u t` for every t < n (R135, last loop). -/
def byteOfSlots (w : Nat) (u : Nat → Nat) : Nat → Byte
  | 0 => 0
  | t + 1 => fieldSet (byteOfSlots w u t) t w (u t)

/-- `sp_tile(r, W)` (R109): every byte of the packed rows must be defined, then each field is decoded. -/
def spTile (s : State) (r w : Nat) : Except Cause Tile := do
  let d := s.params.dim
  let rows ← gatherGrid (fun i b => readSp s (r + i) b) d (rowBytes s.params w)
  .ok (rows.map (fun row => unpackSeq w row d))

end Sys2Proof.Machine
end

