-- ==== Sys2Proof/Machine/Arithmetic.lean ====
section
/-! DEFINITION. The reference arithmetic (41_arithmetic R130 to R139). -/

namespace Sys2Proof.Machine

/-- `in_acc(x)` (R131). -/
def inAcc (p : Params) (x : Int) : Bool :=
  match p.accBits with
  | none => true
  | some b => decide (-2 ^ (b - 1) ≤ x) && decide (x ≤ 2 ^ (b - 1) - 1)

/-- The sum of `f k` over k < n. -/
def sumBelow (f : Nat → Int) : Nat → Int
  | 0 => 0
  | n + 1 => sumBelow f n + f n

/-- `matmul_step(A, B, D)[i][j]` (R132). -/
def matmulStep (dim : Nat) (a b d : Tile) (i j : Nat) : Int :=
  sumBelow (fun k => tileAt a i k * tileAt b k j) dim + tileAt d i j

/-- ZERO, the DIM x DIM array of 0 (R133). -/
def zeroTile (dim : Nat) : Tile := List.replicate dim (List.replicate dim 0)

/-- An element to be stored, added onto the resident one under the accumulate bit (MVIN, UNPACK: R195, R114). -/
def addResident (s : State) (accum : Bool) (r j : Nat) (v : Int) : Except Cause Int :=
  if accum then do
    let cur ← readAcc s r j
    require (inAcc s.params (cur + v) = true) .accOverflow
    .ok (cur + v)
  else .ok v

/-- What a step product is added onto: the resident element under the accumulate bit, else nothing (R134). -/
def residentElem (s : State) (accum : Bool) (r j : Nat) : Except Cause Int :=
  if accum then readAcc s r j else .ok 0

/-- One element of `wide_update` (R134). -/
def wideElem (s : State) (accum : Bool) (r j : Nat) (v : Int) : Except Cause Int := do
  let cur ← residentElem s accum r j
  require (inAcc s.params (cur + v) = true) .accOverflow
  .ok (cur + v)

/-- Store a DIM x DIM array in ACC rows r .. r+DIM-1. -/
def storeAccTile (s : State) (r : Nat) (t : Tile) : State :=
  s.setAcc (s.acc.putGrid r (fun i j => tileAt t i j) s.params.dim s.params.dim)

/-- `wide_update(c, accum, P)` (R134). -/
def wideUpdate (s : State) (c : Nat) (accum : Bool) (prod : Nat → Nat → Int) : Except Cause State := do
  let new ← gatherGrid (fun i j => wideElem s accum (c + i) j (prod i j)) s.params.dim s.params.dim
  .ok (storeAccTile s c new)

/-- The value x of one destination field after k multiply-accumulate steps (R135). -/
def packedCell (w : Nat) (a b d : Tile) (cur : Int) (i j : Nat) : Nat → Int
  | 0 => wrap w (cur + tileAt d i j)
  | k + 1 => wrap w (tileAt a i k * tileAt b k j + packedCell w a b d cur i j k)

/-- The current value of destination field j of row r (R135). -/
def packedCurrent (s : State) (w : Nat) (accum : Bool) (r j : Nat) : Except Cause Int :=
  if accum then do
    let byte ← readSp s r (j / slots w)
    .ok (unpackSigned byte (j % slots w) w)
  else .ok 0

/-- `packed_update(c, accum, A, B, D)` at width w = W_ST (R135). -/
def packedUpdate (s : State) (w c : Nat) (accum : Bool) (a b d : Tile) : Except Cause State := do
  let dim := s.params.dim
  let out ← gatherGrid
    (fun i j => do
      let cur ← packedCurrent s w accum (c + i) j
      .ok (packedCell w a b d cur i j dim))
    dim dim
  .ok (s.setSp (s.sp.putGrid c
    (fun i m => byteOfSlots w (fun t => enc w (tileAt out i (m * slots w + t))) (slots w)) (rowBytes s.params w) dim))

/-- `quantize(x, s, relu, W)` (R139). -/
def quantize (x : Int) (shift : Nat) (relu : Bool) (w : Nat) : Int :=
  let y := x / 2 ^ shift
  clamp w (if relu then max 0 y else y)

end Sys2Proof.Machine
end

