-- ==== Sys2Proof/Machine/Matmul.lean ====
section
/-! DEFINITION. The weight-stationary matmul commands (43_matmul R170 to R173). -/

namespace Sys2Proof.Machine

/-- The destination spaces a policy admits (R170). -/
def destSpaces : Policy → List (Space × Bool)
  | .wide => anyAcc
  | .packed => anySp

/-- DEST checked against the policy in effect (R170). None for SENTINEL: the result is discarded. -/
def checkedDest (s : State) : Except Cause (Option LocalAddr) :=
  if s.dest = sentinel then .ok none
  else do
    let la ← checkLa s.params s.dest (destSpaces s.cfgQ.policy) s.params.dim
    .ok (some la)

/-- The bias tile (41_arithmetic R133): zero for SENTINEL, else the SP tile at `dla`, whose address is checked before. -/
def biasTile (s : State) (dla : LocalWord) : Except Cause Tile :=
  match decodeLa dla with
  | none => .ok (zeroTile s.params.dim)
  | some la => spTile s la.row s.cfgEx.width

/-- `compute_body(ar, dla, B)` (R170). -/
def computeBody (s : State) (ar : Nat) (dla : LocalWord) (weight : Tile) : Except Cause State := do
  let dest ← checkedDest s
  let a ← spTile s ar s.cfgEx.width
  let d ← biasTile s dla
  match dest with
  | none => .ok s
  | some la =>
    match s.cfgQ.policy with
    | .wide => wideUpdate s la.row la.accum (matmulStep s.params.dim a weight d)
    | .packed => packedUpdate s s.cfgSt.width la.row la.accum a weight d

/-- The configuration and address checks COMPUTE.PRE and COMPUTE.ACC share (R172, R173): the SP row of operand A. -/
def computeChecks (s : State) (ala dla : LocalWord) : Except Cause Nat := do
  require (s.cfgEx.valid = true ∧ s.cfgQ.valid = true) .configNotSet
  require (s.cfgQ.policy = .packed → s.cfgSt.valid = true) .configNotSet
  let a ← checkLa s.params ala plainSp s.params.dim
  if dla = sentinel then .ok a.row
  else do
    let _ ← checkLa s.params dla plainSp s.params.dim
    .ok a.row

/-- The weight operand of PRELOAD, checked (R171): its SP row, or none for SENTINEL. -/
def checkedWeight (s : State) (wa : LocalWord) : Except Cause (Option Nat) :=
  if wa = sentinel then .ok none
  else do
    require (s.cfgEx.valid = true) .configNotSet
    let la ← checkLa s.params wa plainSp s.params.dim
    .ok (some la.row)

/-- The destination operand of PRELOAD, checked for its reserved bit and row range only (R171). -/
def checkPreloadDest (s : State) (ca : LocalWord) : Except Cause Unit :=
  if ca = sentinel then .ok ()
  else do
    let _ ← checkLa s.params ca (anySp ++ anyAcc) s.params.dim
    .ok ()

/-- R171's pseudocode. -/
def runPreload (arg1 arg2 : ArgWord) (s : State) : Except Cause State := do
  let wr ← checkedWeight s (laOf arg1)
  checkPreloadDest s (laOf arg2)
  require (s.destValid = false) .preloadPending
  match wr with
  | some r => do
    let t ← spTile s r s.cfgEx.width
    .ok ((s.setPending t).setDest (laOf arg2))
  | none => .ok (s.clearPending.setDest (laOf arg2))

/-- PRELOAD (R171). -/
def execPreload (arg1 arg2 : ArgWord) (s : State) : Host.Outcome State Fault Refusal :=
  settle (.preload arg1 arg2) s (runPreload arg1 arg2 s)

/-- R172's pseudocode. -/
def runComputePre (arg1 arg2 : ArgWord) (s : State) : Except Cause State := do
  let ar ← computeChecks s (laOf arg1) (laOf arg2)
  require (s.destValid = true) .noDestination
  require (s.pendwValid = true) .noPreloadedWeight
  let t ← computeBody s ar (laOf arg2) s.pendw
  .ok (t.makeResident s.pendw)

/-- COMPUTE.PRE (R172). -/
def execComputePre (arg1 arg2 : ArgWord) (s : State) : Host.Outcome State Fault Refusal :=
  settle (.computePre arg1 arg2) s (runComputePre arg1 arg2 s)

/-- R173's pseudocode. -/
def runComputeAcc (arg1 arg2 : ArgWord) (s : State) : Except Cause State := do
  let ar ← computeChecks s (laOf arg1) (laOf arg2)
  require (s.destValid = true) .noDestination
  require (s.wregValid = true) .noResidentWeight
  require (s.pendwValid = false) .unusedWeight
  let t ← computeBody s ar (laOf arg2) s.wreg
  .ok t.consumeDest

/-- COMPUTE.ACC (R173). -/
def execComputeAcc (arg1 arg2 : ArgWord) (s : State) : Host.Outcome State Fault Refusal :=
  settle (.computeAcc arg1 arg2) s (runComputeAcc arg1 arg2 s)

end Sys2Proof.Machine
end

