-- ==== Sys2Proof/Machine/Move.lean ====
section
/-! DEFINITION. The data movement commands (44_move R195, R196). -/

namespace Sys2Proof.Machine

/-- Field j of row i of the MEM tile at `ma`, width `w`, decoded (20_memory R55, 44_move R195). -/
def memField (s : State) (ma w i j : Nat) : Int :=
  unpackSigned (s.memByte (ma + i * rowBytes s.params w + j / slots w)) (j % slots w) w

/-- R195's pseudocode. -/
def runMvin (arg1 arg2 : ArgWord) (s : State) : Except Cause State := do
  require (s.cfgLd.valid = true) .configNotSet
  let d := s.params.dim
  let ma := memAddr arg1
  let w := s.cfgLd.width
  let n := rowBytes s.params w
  let la ← checkLa s.params (laOf arg2) [(.sp, false), (.acc, false), (.acc, true)] d
  require (MemInRange s.params ma (d * n)) .memOutOfRange
  match la.space with
  | .sp => .ok (s.setSp (s.sp.putGrid la.row (fun i b => s.memByte (ma + i * n + b)) n d))
  | .acc => do
    let new ← gatherGrid (fun i j => addResident s la.accum (la.row + i) j (memField s ma w i j)) d d
    .ok (storeAccTile s la.row new)

/-- MVIN (R195). -/
def execMvin (arg1 arg2 : ArgWord) (s : State) : Host.Outcome State Fault Refusal :=
  settle (.mvin arg1 arg2) s (runMvin arg1 arg2 s)

/-- Store DIM rows of n bytes at MEM address `ma`, rows contiguous (20_memory R55). -/
def storeMemTile (s : State) (ma n : Nat) (rows : List (List Byte)) : State :=
  s.setMem (s.mem.writeRange ma (fun o => (rows.getD (o / n) []).getD (o % n) 0) (s.params.dim * n))

/-- R196's pseudocode. -/
def runMvout (arg1 arg2 : ArgWord) (s : State) : Except Cause State := do
  require (s.cfgSt.valid = true) .configNotSet
  let d := s.params.dim
  let ma := memAddr arg1
  let w := s.cfgSt.width
  let n := rowBytes s.params w
  let la ← checkLa s.params (laOf arg2) [(.sp, false), (.acc, false)] d
  require (la.space = .acc → s.cfgQ.valid = true) .configNotSet
  require (MemInRange s.params ma (d * n)) .memOutOfRange
  match la.space with
  | .sp => do
    let rows ← gatherGrid (fun i b => readSp s (la.row + i) b) d n
    .ok (storeMemTile s ma n rows)
  | .acc => do
    let vals ← gatherGrid (fun i j => readAcc s (la.row + i) j) d d
    let rows := vals.map (fun row => packSeq w (row.map (fun x => quantize x s.cfgQ.shift.toNat s.cfgQ.relu w)))
    .ok (storeMemTile s ma n rows)

/-- MVOUT (R196). -/
def execMvout (arg1 arg2 : ArgWord) (s : State) : Host.Outcome State Fault Refusal :=
  settle (.mvout arg1 arg2) s (runMvout arg1 arg2 s)

end Sys2Proof.Machine
end

