-- ==== Sys2Proof/Machine/PackUnpack.lean ====
section
/-! DEFINITION. The codec commands (40_codec R113, R114). -/

namespace Sys2Proof.Machine

/-- R113's pseudocode. -/
def runPack (k : BitVec 16) (lw : BitVec 2) (arg1 arg2 : ArgWord) (s : State) : Except Cause State := do
  let w := widthOfLw lw
  require (k.toNat ≤ s.params.dim) .countOutOfRange
  let src ← checkLa s.params (laOf arg1) plainAcc 1
  let dst ← checkLa s.params (laOf arg2) plainSp 1
  let v ← gather (fun j => readAcc s src.row j) k.toNat
  let bytes := packSeq w v
  .ok (s.setSp (s.sp.putRow dst.row (fun b => bytes.getD b 0) bytes.length))

/-- PACK (R113). -/
def execPack (k : BitVec 16) (lw : BitVec 2) (arg1 arg2 : ArgWord) (s : State) : Host.Outcome State Fault Refusal :=
  settle (.pack k lw arg1 arg2) s (runPack k lw arg1 arg2 s)

/-- R114's pseudocode. -/
def runUnpack (k : BitVec 16) (lw : BitVec 2) (arg1 arg2 : ArgWord) (s : State) : Except Cause State := do
  let w := widthOfLw lw
  require (k.toNat ≤ s.params.dim) .countOutOfRange
  let src ← checkLa s.params (laOf arg1) plainSp 1
  let dst ← checkLa s.params (laOf arg2) anyAcc 1
  let bytes ← gather (fun b => readSp s src.row b) (packedLen k.toNat w)
  let v := unpackSeq w bytes k.toNat
  let new ← gather (fun j => addResident s dst.accum dst.row j (v.getD j 0)) k.toNat
  .ok (s.setAcc (s.acc.putRow dst.row (fun j => new.getD j 0) k.toNat))

/-- UNPACK (R114). -/
def execUnpack (k : BitVec 16) (lw : BitVec 2) (arg1 arg2 : ArgWord) (s : State) : Host.Outcome State Fault Refusal :=
  settle (.unpack k lw arg1 arg2) s (runUnpack k lw arg1 arg2 s)

end Sys2Proof.Machine
end

