-- ==== Sys2Proof/Machine/Sync.lean ====
section
/-! DEFINITION. The synchronisation and maintenance commands (45_sync R210, R212). -/

namespace Sys2Proof.Machine

/-- FENCE (R210): no block effect. The host's half of the barrier is `takeAction .fence` (R211). -/
def execFence (_arg1 _arg2 : ArgWord) (s : State) : Host.Outcome State Fault Refusal := .next s

/-- FLUSH (R212): SBQ holds no translation state, so no effect, whatever the selector. -/
def execFlush (_arg1 _arg2 : ArgWord) (s : State) : Host.Outcome State Fault Refusal := .next s

end Sys2Proof.Machine
end

