-- ==== Sys2Proof/Machine/Dispatch.lean ====
section
/-! DEFINITION. One arm per command of the opcode map (30_encoding R88, 60_exceptions R241). -/

namespace Sys2Proof.Machine

def exec (i : Instr) (s : State) : Host.Outcome State Fault Refusal :=
  match i with
  | .cfgprec role log2w arg1 arg2 => Sys2Proof.Machine.execCfgprec role log2w arg1 arg2 s
  | .cfgacc shift relu policy arg1 arg2 => Sys2Proof.Machine.execCfgacc shift relu policy arg1 arg2 s
  | .mvin arg1 arg2 => Sys2Proof.Machine.execMvin arg1 arg2 s
  | .mvout arg1 arg2 => Sys2Proof.Machine.execMvout arg1 arg2 s
  | .preload arg1 arg2 => Sys2Proof.Machine.execPreload arg1 arg2 s
  | .computePre arg1 arg2 => Sys2Proof.Machine.execComputePre arg1 arg2 s
  | .computeAcc arg1 arg2 => Sys2Proof.Machine.execComputeAcc arg1 arg2 s
  | .pack k lw arg1 arg2 => Sys2Proof.Machine.execPack k lw arg1 arg2 s
  | .unpack k lw arg1 arg2 => Sys2Proof.Machine.execUnpack k lw arg1 arg2 s
  | .fence arg1 arg2 => Sys2Proof.Machine.execFence arg1 arg2 s
  | .flush arg1 arg2 => Sys2Proof.Machine.execFlush arg1 arg2 s

end Sys2Proof.Machine
end

