-- ==== Sys2Proof/Machine/Flags.lean ====
section
/-! DEFINITION. SBQ has no condition codes (10_state R23). What a flag file holds here is the STATUS word of 10_state R34:
the cause codes and the host's view of HALTED, BUSY, CAUSE and FCMD. -/

namespace Sys2Proof.Machine

/-- The cause code of STATUS[15:8] (60_exceptions R221). -/
def Cause.code : Cause → BitVec 8
  | .none => 0
  | .illegalCommand => 1
  | .configViolation => 2
  | .configNotSet => 3
  | .illegalAddress => 4
  | .rowOutOfRange => 5
  | .memOutOfRange => 6
  | .countOutOfRange => 7
  | .noDestination => 8
  | .noPreloadedWeight => 9
  | .noResidentWeight => 10
  | .unusedWeight => 11
  | .preloadPending => 12
  | .uninitRead => 13
  | .accOverflow => 14

/-- BUSY: 1 when Q is not empty (R34). -/
def State.busy (s : State) : Bool := !s.queue.isEmpty

/-- The 64-bit STATUS word the host reads (R34): FCMD, 0, CAUSE, 0, BUSY, HALTED. -/
def State.statusWord (s : State) : BitVec 64 :=
  s.fcmd ++ 0#16 ++ s.cause.code ++ 0#6 ++ BitVec.ofBool s.busy ++ BitVec.ofBool s.halted

end Sys2Proof.Machine
end

