-- ==== Sys2Proof/Machine/HostActions.lean ====
section
/-! DEFINITION. The host interface (60_exceptions R240) and its ordering against the block (20_memory R63 to R66,
45_sync R211). Each action is one atomic step (60_exceptions R242). -/

namespace Sys2Proof.Machine

/-- The packet a host fence pushes (45_sync R210, R211). -/
def fencePacket : Packet := encode (.fence 0 0)

/-- The footprint of a packet (20_memory R65): OPCODE 0x10 and 0x11 have one, whatever the rest of CMD. -/
def footprintOf (p : Params) (pkt : Packet) : Option Footprint :=
  if opcodeOf pkt.cmd = 0x10#8 ∨ opcodeOf pkt.cmd = 0x11#8 then
    some { base := memAddr pkt.arg1, size := p.dim * p.dim }
  else none

/-- Does MEM address a lie in the footprint? -/
def Footprint.covers (f : Footprint) (a : Nat) : Bool := decide (f.base ≤ a) && decide (a < f.base + f.size)

/-- A host access of MEM address a races an outstanding command (20_memory R66). -/
def State.races (s : State) (a : Nat) : Bool := s.outstanding.any (·.covers a)

/-- `push` when the host need not wait (R240): discarded while halted, else appended, with its footprint. -/
def State.pushPacket (s : State) (pkt : Packet) : State :=
  if s.halted then s
  else (s.setQueue (s.queue ++ [pkt])).setOutstanding (s.outstanding ++ (footprintOf s.params pkt).toList)

/-- Q is full and the block is not halted, so a push must wait (R240). -/
def State.pushWaits (s : State) : Bool := !s.halted && decide (s.params.qdepth ≤ s.queue.length)

/-- Must the host wait before it can take this action? A waiting fence holds every action but reset, which is taken in
any state (70_reset R250, log 6), and a full queue holds a push. -/
def State.hostMustWait (s : State) : HostAction → Bool
  | .reset => false
  | .push _ => s.hostWait || s.pushWaits
  | .fence => s.hostWait || s.pushWaits
  | .readMem _ => s.hostWait
  | .writeMem _ _ => s.hostWait
  | .readStatus => s.hostWait
  | .readFarg1 => s.hostWait
  | .readFarg2 => s.hostWait

/-- A waiting fence may complete: Q is empty or the block is halted (45_sync R211). That it does so in a step of its own,
before any other turn, is a DESIGN CHOICE (log 7). -/
def State.fenceDone (s : State) : Bool := s.hostWait && (s.queue.isEmpty || s.halted)

/-- One host action, taken when the host need not wait (R240). -/
def takeAction (a : HostAction) (s : State) : Host.Outcome State Fault Refusal :=
  match a with
  | .push pkt => .next (s.pushPacket pkt)
  | .readMem addr =>
    if addr.toNat < s.params.memSize then
      .next ((s.noteRace (s.races addr.toNat)).reply ((s.memByte addr.toNat).setWidth 64))
    else .refused .hostAddressOutOfRange
  | .writeMem addr v =>
    if addr.toNat < s.params.memSize then
      .next ((s.noteRace (s.races addr.toNat)).setMem (s.mem.write addr.toNat v))
    else .refused .hostAddressOutOfRange
  | .readStatus => .next (s.reply s.statusWord)
  | .readFarg1 => .next (s.reply s.farg1)
  | .readFarg2 => .next (s.reply s.farg2)
  | .fence => .next (s.pushPacket fencePacket).startWait
  | .reset => .next s.blockReset

end Sys2Proof.Machine
end

