-- ==== Sys2Proof/Machine/System.lean ====
section
/-! DEFINITION. The block step (60_exceptions R241), the interleaving of host and block (R242), and a run (R243). -/

namespace Sys2Proof.Machine

/-- The packet just fetched, run (R241): an illegal packet takes the fault ILLEGAL_COMMAND. -/
def runPacket (p : Packet) (s : State) : Host.Outcome State Fault Refusal :=
  match decode p with
  | .ok i => exec i s
  | .error _ => .next (s.faultEntry .illegalCommand p)

/-- `block_step()` (R241). An idle block leaves every piece of state unchanged (R249, log 12). -/
def blockStep (s : State) : Host.Outcome State Fault Refusal :=
  match s.fetch with
  | none => .next s
  | some (p, t) => runPacket p t

/-- One step of the system (R242). A fence that may complete completes first (45_sync R211). Otherwise the next event is
taken: a block turn, or a host action, in whose place the block steps while the host must wait. With no event left every
step is the block's, which is R242's fairness. The order of turns is data, so every interleaving is some event list. -/
def systemStep (s : State) : Host.Outcome State Fault Refusal :=
  if s.fenceDone then .next s.completeFence
  else match s.events with
    | [] => blockStep s
    | .block :: rest => blockStep (s.setEvents rest)
    | .host a :: rest => if s.hostMustWait a then blockStep s else takeAction a (s.setEvents rest)

/-- The start of a run (R243): a reset block, MEM the run's input, UNFENCED = 0, and the turns to come. -/
def startOfRun (p : Params) (mem : Memory) (events : List Event) : State :=
  { State.initial p with mem := mem, events := events }

/-- Is this turn a host action? -/
def Event.isHost : Event → Bool
  | .block => false
  | .host _ => true

/-- The host program has taken its last action (R243): no host action is left among the turns to come, and the host does
not wait, since the wait of a fence is part of the fence (45_sync R211; DEDUCED, log 22). -/
def State.programOver (s : State) : Bool := !s.hostWait && !s.events.any Event.isHost

/-- Where the run of `s` ends (R243): the first state whose host program is over. Block turns still listed there, and
packets still in Q, are no part of the run. None when no such state is reached within the given number of steps, or when
the host program is refused. -/
def endOfRun (s : State) : Nat → Option State
  | 0 => if s.programOver then some s else none
  | n + 1 =>
    if s.programOver then some s
    else match systemStep s with
      | .next t => endOfRun t n
      | .fault _ => none
      | .refused _ => none

end Sys2Proof.Machine
end

