-- ==== Sys2Proof/Machine/Step.lean ====
section
/-! DEFINITION. The machine's step, and where it fetches its next instruction. -/

namespace Sys2Proof.Machine

/-- One step (60_exceptions R241, R242). -/
def step (s : State) : Host.Outcome State Fault Refusal := systemStep s

/-- `s` with the instruction whose bits are `w` at the head of Q (10_state R22, R36), the block running and its turn next
(log 10). -/
def State.withFetchWord (s : State) (nbits w : Nat) : State := s.placeHead (packetOfBits nbits w)

end Sys2Proof.Machine
end

