-- ==== Sys2Proof/Machine/Assembler.lean ====
section
/-! DEFINITION. The assembler syntax as data (30_encoding R92 to R94): what each form assembles to. Text is not parsed
(log 18). -/

namespace Sys2Proof.Machine

/-- A local address operand (R93): `sp:N`, `sp+:N`, `acc:N`, `acc+:N`, `-`, or a number. -/
inductive LocalOperand where
  | sp (n : Nat)
  | spPlus (n : Nat)
  | acc (n : Nat)
  | accPlus (n : Nat)
  | dash
  | number (la : LocalWord)
  deriving DecidableEq, Repr

/-- N is a row number below 2^29 (R93). -/
def LocalOperand.wellFormed : LocalOperand → Bool
  | .sp n => n < 2 ^ 29
  | .spPlus n => n < 2 ^ 29
  | .acc n => n < 2 ^ 29
  | .accPlus n => n < 2 ^ 29
  | .dash => true
  | .number _ => true

/-- The local address an operand stands for (R93). -/
def LocalOperand.word : LocalOperand → LocalWord
  | .sp n => BitVec.ofNat 32 n
  | .spPlus n => 0x40000000#32 + BitVec.ofNat 32 n
  | .acc n => 0x80000000#32 + BitVec.ofNat 32 n
  | .accPlus n => 0xC0000000#32 + BitVec.ofNat 32 n
  | .dash => sentinel
  | .number la => la

/-- The ARG word of a local address operand: bits [63:32] are 0 (R92). -/
def LocalOperand.arg (o : LocalOperand) : ArgWord := o.word.setWidth 64

/-- The W of `pack.W` and `unpack.W` (R92). -/
inductive FieldWidth where
  | w1 | w2 | w4 | w8
  deriving DecidableEq, Repr

/-- LW = log2 W (R92). -/
def FieldWidth.lw : FieldWidth → BitVec 2
  | .w1 => 0
  | .w2 => 1
  | .w4 => 2
  | .w8 => 3

/-- An assembly line (R92). -/
inductive AsmLine where
  | cfgprec (role : Role) (rowWidth : BitVec 16) (log2w : BitVec 3)
  | cfgacc (shift : BitVec 6) (relu : Bool) (policy : Policy)
  | mvin (maddr : ArgWord) (la : LocalOperand)
  | mvout (maddr : ArgWord) (la : LocalOperand)
  | preload (wla cla : LocalOperand)
  | computePre (ala dla : LocalOperand)
  | computeAcc (ala dla : LocalOperand)
  | pack (w : FieldWidth) (k : BitVec 16) (src dst : LocalOperand)
  | unpack (w : FieldWidth) (k : BitVec 16) (src dst : LocalOperand)
  | fence
  | flush (selector : ArgWord)
  deriving DecidableEq, Repr

/-- The instruction an assembly line stands for (R92). An ignored ARG word is assembled as 0. -/
def AsmLine.instr : AsmLine → Instr
  | .cfgprec role rowWidth log2w => .cfgprec role log2w (rowWidth.setWidth 64) 0
  | .cfgacc shift relu policy => .cfgacc shift relu policy 0 0
  | .mvin maddr la => .mvin maddr la.arg
  | .mvout maddr la => .mvout maddr la.arg
  | .preload wla cla => .preload wla.arg cla.arg
  | .computePre ala dla => .computePre ala.arg dla.arg
  | .computeAcc ala dla => .computeAcc ala.arg dla.arg
  | .pack w k src dst => .pack k w.lw src.arg dst.arg
  | .unpack w k src dst => .unpack k w.lw src.arg dst.arg
  | .fence => .fence 0 0
  | .flush selector => .flush selector 0

/-- The packet an assembly line assembles to (R92). -/
def assemble (l : AsmLine) : Packet := encode l.instr

/-- The pseudo-instructions (R94). -/
inductive PseudoLine where
  | preloadZero (cla : LocalOperand)
  | preloadW (wla cla : LocalOperand)
  | computePre (ala : LocalOperand)
  | computeAcc (ala : LocalOperand)
  | cfgprecLd (log2w : BitVec 3)
  | cfgprecEx (log2w : BitVec 3)
  | cfgprecSt (log2w : BitVec 3)
  | cfgaccClamp (policy : Policy)
  deriving DecidableEq, Repr

/-- WLA of `preload.w` is not `-` (R94). -/
def PseudoLine.wellFormed : PseudoLine → Bool
  | .preloadZero _ => true
  | .preloadW wla _ => wla ≠ .dash
  | .computePre _ => true
  | .computeAcc _ => true
  | .cfgprecLd _ => true
  | .cfgprecEx _ => true
  | .cfgprecSt _ => true
  | .cfgaccClamp _ => true

/-- The expansion of a pseudo-instruction (R94). DESIGN CHOICE (safe, log 21): for a DIM that does not fit the 16-bit
ROW_WIDTH, of which R94 says nothing, `cfgprec.ld`, `.ex` and `.st` take its low 16 bits. -/
def PseudoLine.expand (p : Params) : PseudoLine → AsmLine
  | .preloadZero cla => .preload .dash cla
  | .preloadW wla cla => .preload wla cla
  | .computePre ala => .computePre ala .dash
  | .computeAcc ala => .computeAcc ala .dash
  | .cfgprecLd log2w => .cfgprec .ld (BitVec.ofNat 16 p.dim) log2w
  | .cfgprecEx log2w => .cfgprec .ex (BitVec.ofNat 16 p.dim) log2w
  | .cfgprecSt log2w => .cfgprec .st (BitVec.ofNat 16 p.dim) log2w
  | .cfgaccClamp policy => .cfgacc 0 false policy

end Sys2Proof.Machine
end

