-- ==== Sys2Proof/Safety.lean ====
section
/-! DEFINITION. What counts as a safe run, what a run's outcome is (60_exceptions R234, R243), the invariants of the
machine, and the vocabulary of the statements. -/

namespace Sys2Proof.Machine

/-! ### Runs -/

/-- No host access has raced an outstanding command: rules about MEM hold of such runs only (60_exceptions R234). -/
def State.Fenced (s : State) : Prop := s.unfenced = false

/-- No command has faulted since reset. -/
def State.Running (s : State) : Prop := s.halted = false

/-- The outcome of a run (R243). STATUS.BUSY is no part of it. -/
structure RunOutcome where
  mem : Memory
  halted : Bool
  cause : Cause
  fcmd : CmdWord
  farg1 : ArgWord
  farg2 : ArgWord
  unfenced : Bool
  deriving DecidableEq, Repr

/-- The outcome a state holds (R243). -/
def State.outcome (s : State) : RunOutcome :=
  { mem := s.mem, halted := s.halted, cause := s.cause, fcmd := s.fcmd, farg1 := s.farg1, farg2 := s.farg2,
    unfenced := s.unfenced }

/-- A run with these parameters, input MEM and interleaving ends with outcome `o` (R243). -/
def RunEndsWith (p : Params) (mem : Memory) (events : List Event) (o : RunOutcome) : Prop :=
  ∃ n t, endOfRun (startOfRun p mem events) n = some t ∧ t.outcome = o

/-! ### Invariants -/

/-- MEM, SP and ACC have their canonical forms, and list nothing outside MEM_SIZE bytes, SP_ROWS rows of DIM bytes and
ACC_ROWS rows of DIM elements (10_state R24, R25, R28). -/
def StorageCanonical (s : State) : Prop :=
  s.mem.wf ∧ (∀ c ∈ s.mem, c.1 < s.params.memSize) ∧ s.sp.wf s.params.spRows s.params.dim
    ∧ s.acc.wf s.params.accRows s.params.dim

/-- Every defined accumulator element is in the accumulator's range (10_state R25, 41_arithmetic R131). -/
def AccInRange (s : State) : Prop := ∀ r j v, s.accElem r j = some v → inAcc s.params v = true

/-- A DIM x DIM array of signed integers in [-128, 127]. -/
def WeightTile (p : Params) (t : Tile) : Prop :=
  t.length = p.dim ∧ (∀ row ∈ t, row.length = p.dim) ∧ ∀ i j, -128 ≤ tileAt t i j ∧ tileAt t i j ≤ 127

/-- PENDW and WREG are DIM x DIM arrays in [-128, 127] (10_state R31, R33). -/
def WeightsInRange (s : State) : Prop := WeightTile s.params s.pendw ∧ WeightTile s.params s.wreg

/-- A valid precision register holds what CFGPREC accepts: ROW_WIDTH = DIM and DIM·W a multiple of 8 (10_state R29,
42_config R160). -/
abbrev LegalPrecision (p : Params) (r : PrecisionReg) : Prop :=
  r.valid = true → r.rowWidth.toNat = p.dim ∧ p.dim * r.width % 8 = 0

/-- CFG_LD, CFG_EX and CFG_ST hold legal values (10_state R29). -/
abbrev ConfigLegal (s : State) : Prop :=
  LegalPrecision s.params s.cfgLd ∧ LegalPrecision s.params s.cfgEx ∧ LegalPrecision s.params s.cfgSt

/-- A pending weight has a pending destination (43_matmul R174). -/
abbrev WeightHasDestination (s : State) : Prop := s.pendwValid = true → s.destValid = true

/-- A pending destination is SENTINEL or names DIM rows of SP or ACC with reserved bit 0 (43_matmul R171). -/
abbrev DestinationLegal (s : State) : Prop :=
  s.destValid = true → s.dest = sentinel ∨
    ∃ la ∈ decodeLa s.dest, la.rsv = false ∧ la.row + s.params.dim ≤ rowsOf s.params la.space

/-- STATUS, FARG1 and FARG2 record a fault exactly while the block is halted (10_state R34, R35). -/
abbrev FaultRecorded (s : State) : Prop :=
  (s.halted = false → s.cause = .none ∧ s.fcmd = 0 ∧ s.farg1 = 0 ∧ s.farg2 = 0) ∧ (s.halted = true → s.cause ≠ .none)

/-- Q holds at most QDEPTH packets (10_state R36). -/
abbrev QueueBounded (s : State) : Prop := s.queue.length ≤ s.params.qdepth

/-- While the block runs, the footprint of every move command in Q is outstanding (20_memory R65). -/
def QueueOutstanding (s : State) : Prop :=
  s.halted = false → ∀ p ∈ s.queue, ∀ f, footprintOf s.params p = some f → f ∈ s.outstanding

/-! ### The vocabulary of the statements -/

/-- The LA of an ARG word names `n` rows from `row` of a storage, with reserved bit 0 and the given accumulate bit, all
in range (30_encoding R83, R85). -/
abbrev NamesRows (s : State) (arg : ArgWord) (space : Space) (accum : Bool) (row n : Nat) : Prop :=
  decodeLa (laOf arg) = some { space := space, accum := accum, rsv := false, row := row }
    ∧ row + n ≤ rowsOf s.params space

/-- The LA of an ARG word is no sentinel, has reserved bit 0, and is one of the admitted (space, accumulate) pairs
(30_encoding R85). -/
abbrev LegalAddress (arg : ArgWord) (allowed : List (Space × Bool)) : Prop :=
  ∃ la ∈ decodeLa (laOf arg), la.rsv = false ∧ (la.space, la.accum) ∈ allowed

/-- The `n` rows the LA of an ARG word names are in range (30_encoding R85). -/
abbrev RowsInRange (s : State) (arg : ArgWord) (n : Nat) : Prop :=
  ∀ la ∈ decodeLa (laOf arg), la.row + n ≤ rowsOf s.params la.space

/-- The command ends in the fault entry with cause `c`, recording its own packet, and in nothing else
(60_exceptions R226, R227). -/
def FaultsWith (i : Instr) (s : State) (c : Cause) (out : Host.Outcome State Fault Refusal) : Prop :=
  out = .next { s with halted := true, cause := c, fcmd := (encode i).cmd, farg1 := (encode i).arg1, farg2 := (encode i).arg2 }

/-- Field j of SP row r at width w: undef when its byte is (00_scope R11, 40_codec R106). -/
def spField (s : State) (r w j : Nat) : Option Int :=
  (s.spByte r (j / slots w)).map (fun byte => unpackSigned byte (j % slots w) w)

/-- The SP tile at row r and width w is defined and holds the elements `f` (40_codec R109). -/
def HoldsTile (s : State) (r w : Nat) (f : Nat → Nat → Int) : Prop :=
  ∀ i j, i < s.params.dim → j < s.params.dim → spField s (r + i) w j = some (f i j)

/-- The bias operand is `f`: zero for SENTINEL, else the SP tile it names (41_arithmetic R133). -/
def HoldsBias (s : State) (arg : ArgWord) (f : Nat → Nat → Int) : Prop :=
  (laOf arg = sentinel ∧ f = fun _ _ => 0) ∨
    ∃ row, NamesRows s arg .sp false row s.params.dim ∧ HoldsTile s row s.cfgEx.width f

/-- The step product of elements A, B and D, as the sum of 41_arithmetic R132. -/
def stepProduct (dim : Nat) (a b d : Nat → Nat → Int) (i j : Nat) : Int :=
  (∑ k ∈ Finset.range dim, a i k * b k j) + d i j

/-- Everything a COMPUTE needs but its weight and its destination: the configuration, operand A with elements `a`, bias D
with elements `d`, and a pending destination (43_matmul R172, R173). -/
def ComputeReady (s : State) (arg1 arg2 : ArgWord) (a d : Nat → Nat → Int) : Prop :=
  s.cfgEx.valid = true ∧ s.cfgQ.valid = true ∧ (s.cfgQ.policy = .packed → s.cfgSt.valid = true) ∧ ConfigLegal s ∧
    (∃ row, NamesRows s arg1 .sp false row s.params.dim ∧ HoldsTile s row s.cfgEx.width a) ∧ HoldsBias s arg2 d ∧
    s.destValid = true

/-- DEST names DIM rows from `row` of a storage, with the given accumulate bit. -/
abbrev DestNames (s : State) (space : Space) (accum : Bool) (row : Nat) : Prop :=
  decodeLa s.dest = some { space := space, accum := accum, rsv := false, row := row }
    ∧ row + s.params.dim ≤ rowsOf s.params space

/-- The destination operand PRELOAD accepts: SENTINEL, or DIM rows of SP or ACC with reserved bit 0 (43_matmul R171). -/
def PreloadDestOk (s : State) (arg : ArgWord) : Prop :=
  laOf arg = sentinel ∨ ∃ space accum row, NamesRows s arg space accum row s.params.dim

end Sys2Proof.Machine
end

