-- ==== Sys2Proof/Certificates/Slice0/Obligations.lean ====
section
/-! DEFINITION. The statements about the SBQ model, for the provers. -/

open Sys2Proof Sys2Proof.Machine

/-! ### Encoding -/

/-- Decoding the encoding of a well-formed instruction gives it back, for every field and ARG value (30_encoding R88 to R91). -/
def Obligations.DecodeEncodeAgree : Prop :=
  ∀ i : Instr, i.wellFormed = true → decode (encode i) = .ok i

/-- A packet that decodes is the encoding of what it decodes to: decoding drops no bit (30_encoding R76 to R82). -/
def Obligations.EncodeInvertsDecode : Prop :=
  ∀ (p : Packet) (i : Instr), decode p = .ok i → encode i = p ∧ i.wellFormed = true

/-- R89: a CMD word is illegal exactly in the cases the rule lists, and then its command raises ILLEGAL_COMMAND whatever
the rest of the state. -/
def Obligations.IllegalWordsRaiseIllegalCommand : Prop :=
  ∀ p : Packet,
    let formatNs : List (BitVec 8) := [0x10#8, 0x11#8, 0x20#8, 0x21#8, 0x22#8, 0x40#8, 0x41#8]
    let op := p.cmd.extractLsb' 0 8
    let illegal :=
      (op ∉ [0x01#8, 0x02#8, 0x30#8, 0x31#8] ++ formatNs) ∨ (op = 0x01#8 ∧ p.cmd.extractLsb' 13 19 ≠ 0#19) ∨
      (op = 0x02#8 ∧ p.cmd.extractLsb' 16 16 ≠ 0#16) ∨
      ((op = 0x30#8 ∨ op = 0x31#8) ∧ p.cmd.extractLsb' 10 6 ≠ 0#6) ∨
      (op ∈ formatNs ∧ p.cmd.extractLsb' 8 24 ≠ 0#24) ∨ (op = 0x01#8 ∧ p.cmd.extractLsb' 8 2 = 3#2)
    (illegal ↔ ∃ e, decode p = .error e) ∧
      (illegal → ∀ s rest, s.halted = false → s.queue = p :: rest →
        blockStep s = .next { s with
          queue := rest, halted := true, cause := .illegalCommand, fcmd := p.cmd, farg1 := p.arg1, farg2 := p.arg2 })

/-- Words written out from the formats of 30_encoding decode to the instructions they stand for. -/
def Obligations.SpecWordsDecode : Prop :=
  decode ⟨0x00000401#32, 4#64, 0#64⟩ = .ok (.cfgprec .ld 1#3 4#64 0#64) ∧
  decode ⟨0x0000BF02#32, 0#64, 0#64⟩ = .ok (.cfgacc 63#6 false .packed 0#64 0#64) ∧
  decode ⟨0x00000010#32, 0x100#64, 0#64⟩ = .ok (.mvin 0x100#64 0#64) ∧
  decode ⟨0x00000022#32, 4#64, 8#64⟩ = .ok (.computeAcc 4#64 8#64) ∧
  decode ⟨0x00040131#32, 0#64, 0x80000000#64⟩ = .ok (.unpack 4#16 1#2 0#64 0x80000000#64) ∧
  decode ⟨0x00000301#32, 4#64, 0#64⟩ = .error .reservedRole ∧
  decode ⟨0x00000430#32, 0#64, 0#64⟩ = .error .reservedBitSet ∧
  decode ⟨0x00000012#32, 0#64, 0#64⟩ = .error .unassignedOpcode

/-- The assembler's local address operands name the row, space and accumulate bit they spell, and `-` is the sentinel
(30_encoding R83, R84, R93). -/
def Obligations.LocalOperandsNameTheirRows : Prop :=
  ∀ n : Nat, n < 2 ^ 29 →
    decodeLa (LocalOperand.word (.sp n)) = some ⟨.sp, false, false, n⟩ ∧
    decodeLa (LocalOperand.word (.spPlus n)) = some ⟨.sp, true, false, n⟩ ∧
    decodeLa (LocalOperand.word (.acc n)) = some ⟨.acc, false, false, n⟩ ∧
    decodeLa (LocalOperand.word (.accPlus n)) = some ⟨.acc, true, false, n⟩ ∧
    decodeLa (LocalOperand.word .dash) = none

/-! ### Codec and arithmetic -/

/-- R110, R111: packing then unpacking clamps, for one value and for a sequence; `pack_seq` of K values is exactly
ceil(K·W/8) bytes holding all K values in order, and a full row whose DIM·W is a multiple of 8 is exactly DIM·W/8 bytes
with no unused slot. -/
def Obligations.CodecRoundTripClampsDensely : Prop :=
  ∀ w, w ∈ [1, 2, 4, 8] →
    (∀ v : Int, unpackSigned ((packSeq w [v]).getD 0 0) 0 w = max (-2 ^ (w - 1)) (min (2 ^ (w - 1) - 1) v)) ∧
    ∀ v : List Int, (packSeq w v).length = (v.length * w + 7) / 8 ∧
      unpackSeq w (packSeq w v) v.length = v.map (clamp w) ∧
      (v.length * w % 8 = 0 → (packSeq w v).length = v.length * w / 8 ∧ (packSeq w v).length * (8 / w) = v.length)

/-- R105: `field_set` replaces the bits of slot s by u and leaves every other bit of the byte unchanged. -/
def Obligations.FieldSetReplacesOneSlot : Prop :=
  ∀ w, w ∈ [1, 2, 4, 8] → ∀ (byte : Byte) (s u : Nat), s < 8 / w → u < 2 ^ w → ∀ i, i < 8 →
    (fieldSet byte s w u).getLsbD i = if s * w ≤ i ∧ i < s * w + w then u.testBit (i - s * w) else byte.getLsbD i

/-- R102: `dec_W` subtracts 2^W exactly when the top bit of the field is set, and `dec_W` and `enc_W` are inverse. -/
def Obligations.FieldDecodeInvertsEncode : Prop :=
  ∀ w, w ∈ [1, 2, 4, 8] →
    (∀ f : Nat, f < 2 ^ w → dec w f = ((f ^^^ 2 ^ (w - 1) : Nat) : Int) - 2 ^ (w - 1) ∧
      dec w f = (if f.testBit (w - 1) then (f : Int) - 2 ^ w else f) ∧ enc w (dec w f) = f) ∧
    (∀ v : Int, -2 ^ (w - 1) ≤ v → v ≤ 2 ^ (w - 1) - 1 → dec w (enc w v) = v)

/-- The packed policy's multiply-accumulate loop is the wide step product reduced modulo 2^W once (41_arithmetic R135, R136). -/
def Obligations.PackedLoopIsWrappedProduct : Prop :=
  ∀ w, w ∈ [1, 2, 4, 8] → ∀ (a b d : Tile) (cur : Int) (i j n : Nat),
    packedCell w a b d cur i j n = wrap w (cur + stepProduct n (tileAt a) (tileAt b) (tileAt d) i j)

/-- R139, R140: `quantize` floors the shift for every sign, then ReLU, then clamps; a negative value never becomes positive,
-1 stays -1, and a shift beyond ACC_BITS leaves the sign. -/
def Obligations.QuantizeFloorsThenClamps : Prop :=
  ∀ w, w ∈ [1, 2, 4, 8] → ∀ (x : Int) (sh : Nat),
    (∀ relu, quantize x sh relu w = clamp w (if relu then max 0 ⌊(x : ℚ) / 2 ^ sh⌋ else ⌊(x : ℚ) / 2 ^ sh⌋)) ∧
    (x < 0 → ⌊(x : ℚ) / 2 ^ sh⌋ < 0) ∧ ⌊((-1 : Int) : ℚ) / 2 ^ sh⌋ = -1 ∧
    (∀ p b, p.accBits = some b → inAcc p x = true → b < sh → ⌊(x : ℚ) / 2 ^ sh⌋ = if 0 ≤ x then 0 else -1) ∧
    ⌊(-17 : ℚ) / 2 ^ 2⌋ = -5 ∧ quantize (-17) 2 true w = 0

/-- R142, R143: with SHIFT = 0 and RELU = 0 `quantize` is the clamp, and its range with and without ReLU. -/
def Obligations.QuantizeRange : Prop :=
  ∀ w, w ∈ [1, 2, 4, 8] → ∀ (x : Int) (sh : Nat),
    quantize x 0 false w = clamp w x ∧
    (0 ≤ quantize x sh true w ∧ quantize x sh true w ≤ 2 ^ (w - 1) - 1) ∧
    (-2 ^ (w - 1) ≤ quantize x sh false w ∧ quantize x sh false w ≤ 2 ^ (w - 1) - 1) ∧
    quantize x sh true 1 = 0

/-- A step product of elements of at most eight bits is bounded, and fits an accumulator wide enough for the bound
(41_arithmetic R145). -/
def Obligations.StepProductBounded : Prop :=
  ∀ (p : Params) (a b d : Nat → Nat → Int),
    (∀ i j, -128 ≤ a i j ∧ a i j ≤ 127) → (∀ i j, -128 ≤ b i j ∧ b i j ≤ 127) → (∀ i j, -128 ≤ d i j ∧ d i j ≤ 127) →
    ∀ i j,
      (∀ k, -16256 ≤ a i k * b k j ∧ a i k * b k j ≤ 16384) ∧
      |stepProduct p.dim a b d i j| ≤ p.dim * 16384 + 128 ∧
      ((∀ n, p.accBits = some n → (p.dim : Int) * 16384 + 128 ≤ 2 ^ (n - 1) - 1) →
        inAcc p (stepProduct p.dim a b d i j) = true) ∧
      (p.accBits = some 32 → p.dim ≤ 131071 → inAcc p (stepProduct p.dim a b d i j) = true)

/-! ### Configuration, FENCE, FLUSH -/

/-- A legal CFGPREC sets its role's register and nothing else (42_config R160). -/
def Obligations.CfgprecSetsItsRole : Prop :=
  ∀ (s : State) (log2w : BitVec 3) (arg1 arg2 : ArgWord),
    log2w.toNat ≤ 3 → (arg1.extractLsb' 0 16).toNat = s.params.dim → s.params.dim * 2 ^ log2w.toNat % 8 = 0 →
    let reg : PrecisionReg := ⟨true, log2w.setWidth 2, arg1.extractLsb' 0 16⟩
    reg.width = 2 ^ log2w.toNat ∧
    exec (.cfgprec .ld log2w arg1 arg2) s = .next { s with cfgLd := reg } ∧
    exec (.cfgprec .ex log2w arg1 arg2) s = .next { s with cfgEx := reg } ∧
    exec (.cfgprec .st log2w arg1 arg2) s = .next { s with cfgSt := reg }

/-- A CFGPREC with LOG2W > 3, ROW_WIDTH other than DIM, or DIM·W no multiple of 8 faults CONFIG_VIOLATION (42_config R160). -/
def Obligations.CfgprecViolationFaults : Prop :=
  ∀ (s : State) (role : Role) (log2w : BitVec 3) (arg1 arg2 : ArgWord), role ≠ .reserved →
    (3 < log2w.toNat ∨ (arg1.extractLsb' 0 16).toNat ≠ s.params.dim ∨ s.params.dim * 2 ^ log2w.toNat % 8 ≠ 0) →
    FaultsWith (.cfgprec role log2w arg1 arg2) s .configViolation (exec (.cfgprec role log2w arg1 arg2) s)

/-- CFGACC sets CFG_Q from its fields, whatever its ARG words, and nothing else (42_config R161). -/
def Obligations.CfgaccSetsQuantization : Prop :=
  ∀ (s : State) (shift : BitVec 6) (relu : Bool) (policy : Policy) (arg1 arg2 : ArgWord),
    exec (.cfgacc shift relu policy arg1 arg2) s = .next { s with cfgQ := ⟨true, shift, relu, policy⟩ }

/-- FENCE and FLUSH complete with no state change, whatever their ARG words (45_sync R210, R212). -/
def Obligations.FenceAndFlushChangeNothing : Prop :=
  ∀ (s : State) (arg1 arg2 : ArgWord), exec (.fence arg1 arg2) s = .next s ∧ exec (.flush arg1 arg2) s = .next s

/-! ### MVIN and MVOUT -/

/-- MVIN into SP copies the tile's bytes and changes nothing else (44_move R195, 20_memory R55, R56). -/
def Obligations.MvinCopiesTileToScratchpad : Prop :=
  ∀ (s : State) (arg1 arg2 : ArgWord) (row : Nat),
    let n := s.params.dim * s.cfgLd.width / 8
    s.cfgLd.valid = true → NamesRows s arg2 .sp false row s.params.dim →
    arg1.toNat + s.params.dim * n ≤ s.params.memSize →
    ∃ t, exec (.mvin arg1 arg2) s = .next t ∧ t = { s with sp := t.sp } ∧
      ∀ r b, t.spByte r b =
        if row ≤ r ∧ r < row + s.params.dim ∧ b < n then some (s.memByte (arg1.toNat + (r - row) * n + b)) else s.spByte r b

/-- MVIN into ACC stores every sign-extended field, added onto the resident element under the accumulate bit, and changes
nothing else (44_move R195). -/
def Obligations.MvinDecodesTileToAccumulator : Prop :=
  ∀ (s : State) (arg1 arg2 : ArgWord) (accum : Bool) (row : Nat) (old : Nat → Nat → Int),
    let w := s.cfgLd.width
    let n := s.params.dim * w / 8
    let field := fun i j => unpackSigned (s.memByte (arg1.toNat + i * n + j / slots w)) (j % slots w) w
    s.cfgLd.valid = true → NamesRows s arg2 .acc accum row s.params.dim →
    arg1.toNat + s.params.dim * n ≤ s.params.memSize →
    (accum = false → ∀ i j, old i j = 0) →
    (accum = true → ∀ i j, i < s.params.dim → j < s.params.dim →
      s.accElem (row + i) j = some (old i j) ∧ inAcc s.params (old i j + field i j) = true) →
    ∃ t, exec (.mvin arg1 arg2) s = .next t ∧ t = { s with acc := t.acc } ∧
      ∀ r j, t.accElem r j =
        if row ≤ r ∧ r < row + s.params.dim ∧ j < s.params.dim then some (old (r - row) j + field (r - row) j)
        else s.accElem r j

/-- MVIN's checks, in the order its rule writes them (44_move R195, 60_exceptions R222). -/
def Obligations.MvinFaultsInOrder : Prop :=
  ∀ (s : State) (arg1 arg2 : ArgWord),
    let faults := fun c => FaultsWith (.mvin arg1 arg2) s c (exec (.mvin arg1 arg2) s)
    let legal := LegalAddress arg2 [(.sp, false), (.acc, false), (.acc, true)]
    let rows := RowsInRange s arg2 s.params.dim
    (s.cfgLd.valid = false → faults .configNotSet) ∧
    (s.cfgLd.valid = true → ¬ legal → faults .illegalAddress) ∧
    (s.cfgLd.valid = true → legal → ¬ rows → faults .rowOutOfRange) ∧
    (s.cfgLd.valid = true → legal → rows →
      s.params.memSize < arg1.toNat + s.params.dim * (s.params.dim * s.cfgLd.width / 8) → faults .memOutOfRange)

/-- An accumulating MVIN reports its first failing element in row-major order: undef as UNINIT_READ, a sum outside the
accumulator's range as ACC_OVERFLOW (44_move R195, 60_exceptions R222). -/
def Obligations.MvinAccumulateReportsFirstFault : Prop :=
  ∀ (s : State) (arg1 arg2 : ArgWord) (row i0 j0 : Nat),
    let w := s.cfgLd.width
    let n := s.params.dim * w / 8
    let field := fun i j => unpackSigned (s.memByte (arg1.toNat + i * n + j / slots w)) (j % slots w) w
    let faults := fun c => FaultsWith (.mvin arg1 arg2) s c (exec (.mvin arg1 arg2) s)
    s.cfgLd.valid = true → NamesRows s arg2 .acc true row s.params.dim →
    arg1.toNat + s.params.dim * n ≤ s.params.memSize → i0 < s.params.dim → j0 < s.params.dim →
    (∀ i j, j < s.params.dim → (i < i0 ∨ (i = i0 ∧ j < j0)) →
      ∃ cur, s.accElem (row + i) j = some cur ∧ inAcc s.params (cur + field i j) = true) →
    (s.accElem (row + i0) j0 = none → faults .uninitRead) ∧
    (∀ cur, s.accElem (row + i0) j0 = some cur → inAcc s.params (cur + field i0 j0) = false → faults .accOverflow)

/-- MVOUT from SP copies the tile's bytes to MEM and changes nothing else (44_move R196). -/
def Obligations.MvoutCopiesScratchpadTile : Prop :=
  ∀ (s : State) (arg1 arg2 : ArgWord) (row : Nat) (bytes : Nat → Nat → Byte),
    let n := s.params.dim * s.cfgSt.width / 8
    s.cfgSt.valid = true → NamesRows s arg2 .sp false row s.params.dim →
    arg1.toNat + s.params.dim * n ≤ s.params.memSize →
    (∀ i b, i < s.params.dim → b < n → s.spByte (row + i) b = some (bytes i b)) →
    ∃ t, exec (.mvout arg1 arg2) s = .next t ∧ t = { s with mem := t.mem } ∧
      (∀ i b, i < s.params.dim → b < n → t.memByte (arg1.toNat + i * n + b) = bytes i b) ∧
      ∀ a, ¬ (arg1.toNat ≤ a ∧ a < arg1.toNat + s.params.dim * n) → t.memByte a = s.memByte a

/-- MVOUT from ACC shifts, rectifies, saturates and packs every element, and changes nothing else (44_move R196). -/
def Obligations.MvoutQuantizesAccumulatorTile : Prop :=
  ∀ (s : State) (arg1 arg2 : ArgWord) (row : Nat) (x : Nat → Nat → Int),
    let w := s.cfgSt.width
    let n := s.params.dim * w / 8
    s.cfgSt.valid = true → s.cfgQ.valid = true → ConfigLegal s → NamesRows s arg2 .acc false row s.params.dim →
    arg1.toNat + s.params.dim * n ≤ s.params.memSize →
    (∀ i j, i < s.params.dim → j < s.params.dim → s.accElem (row + i) j = some (x i j)) →
    ∃ t, exec (.mvout arg1 arg2) s = .next t ∧ t = { s with mem := t.mem } ∧
      (∀ i b, i < s.params.dim → b < n → t.memByte (arg1.toNat + i * n + b) =
        (packSeq w ((List.range s.params.dim).map (fun j => quantize (x i j) s.cfgQ.shift.toNat s.cfgQ.relu w))).getD b 0) ∧
      (∀ i j, i < s.params.dim → j < s.params.dim →
        unpackSigned (t.memByte (arg1.toNat + i * n + j / slots w)) (j % slots w) w
          = quantize (x i j) s.cfgQ.shift.toNat s.cfgQ.relu w) ∧
      ∀ a, ¬ (arg1.toNat ≤ a ∧ a < arg1.toNat + s.params.dim * n) → t.memByte a = s.memByte a

/-- A completed MVOUT writes every byte of its extent (what it leaves there does not depend on MEM before) and no other
byte; a faulting one writes none (44_move R197). -/
def Obligations.MvoutWritesExactlyItsExtent : Prop :=
  ∀ (s : State) (arg1 arg2 : ArgWord),
    let size := s.params.dim * (s.params.dim * s.cfgSt.width / 8)
    (∃ c, FaultsWith (.mvout arg1 arg2) s c (exec (.mvout arg1 arg2) s)) ∨
    ∃ t, exec (.mvout arg1 arg2) s = .next t ∧ t = { s with mem := t.mem } ∧
      arg1.toNat + size ≤ s.params.memSize ∧
      (∀ a, ¬ (arg1.toNat ≤ a ∧ a < arg1.toNat + size) → t.memByte a = s.memByte a) ∧
      ∀ m : Memory, ∃ t', exec (.mvout arg1 arg2) { s with mem := m } = .next t' ∧
        ∀ a, arg1.toNat ≤ a → a < arg1.toNat + size → t'.memByte a = t.memByte a

/-- MVOUT's checks, in the order its rule writes them (44_move R196, 60_exceptions R222). -/
def Obligations.MvoutFaultsInOrder : Prop :=
  ∀ (s : State) (arg1 arg2 : ArgWord),
    let faults := fun c => FaultsWith (.mvout arg1 arg2) s c (exec (.mvout arg1 arg2) s)
    let legal := LegalAddress arg2 [(.sp, false), (.acc, false)]
    let rows := RowsInRange s arg2 s.params.dim
    let n := s.params.dim * s.cfgSt.width / 8
    let fits := arg1.toNat + s.params.dim * n ≤ s.params.memSize
    (s.cfgSt.valid = false → faults .configNotSet) ∧
    (s.cfgSt.valid = true → ¬ legal → faults .illegalAddress) ∧
    (s.cfgSt.valid = true → legal → ¬ rows → faults .rowOutOfRange) ∧
    (s.cfgSt.valid = true → rows → LegalAddress arg2 [(.acc, false)] → s.cfgQ.valid = false → faults .configNotSet) ∧
    (s.cfgSt.valid = true → rows → LegalAddress arg2 [(.sp, false)] → ¬ fits → faults .memOutOfRange) ∧
    (s.cfgSt.valid = true → rows → LegalAddress arg2 [(.acc, false)] → s.cfgQ.valid = true → ¬ fits → faults .memOutOfRange) ∧
    (∀ row i b, s.cfgSt.valid = true → NamesRows s arg2 .sp false row s.params.dim → fits → i < s.params.dim → b < n →
      s.spByte (row + i) b = none → faults .uninitRead) ∧
    (∀ row i j, s.cfgSt.valid = true → NamesRows s arg2 .acc false row s.params.dim → s.cfgQ.valid = true → fits →
      i < s.params.dim → j < s.params.dim → s.accElem (row + i) j = none → faults .uninitRead)

/-- An ACC tile written by MVIN and moved out at the same width with SHIFT = 0 and RELU = 0 gives back the original bytes
(44_move R198, first sentence). -/
def Obligations.AccumulatorRoundTripKeepsBytes : Prop :=
  ∀ (s : State) (src dst la : ArgWord) (row : Nat),
    let size := s.params.dim * (s.params.dim * s.cfgLd.width / 8)
    s.cfgLd.valid = true → s.cfgSt.valid = true → s.cfgSt.width = s.cfgLd.width → ConfigLegal s →
    s.cfgQ.valid = true → s.cfgQ.shift = 0#6 → s.cfgQ.relu = false → NamesRows s la .acc false row s.params.dim →
    src.toNat + size ≤ s.params.memSize → dst.toNat + size ≤ s.params.memSize →
    ∃ t u, exec (.mvin src la) s = .next t ∧ exec (.mvout dst la) t = .next u ∧
      ∀ o, o < size → u.memByte (dst.toNat + o) = s.memByte (src.toNat + o)

/-! ### PRELOAD and COMPUTE -/

/-- PRELOAD with a weight captures the decoded tile in PENDW, sets DEST, and changes nothing else (43_matmul R171). -/
def Obligations.PreloadCapturesWeight : Prop :=
  ∀ (s : State) (arg1 arg2 : ArgWord) (row : Nat) (f : Nat → Nat → Int),
    s.cfgEx.valid = true → ConfigLegal s → NamesRows s arg1 .sp false row s.params.dim → PreloadDestOk s arg2 →
    s.destValid = false → HoldsTile s row s.cfgEx.width f →
    ∃ t, exec (.preload arg1 arg2) s = .next t ∧
      t = { s with pendw := t.pendw, pendwValid := true, dest := arg2.extractLsb' 0 32, destValid := true } ∧
      ∀ i j, i < s.params.dim → j < s.params.dim → tileAt t.pendw i j = f i j

/-- PRELOAD with the sentinel weight only sets DEST and clears PENDW_VALID; it needs no configuration (43_matmul R171). -/
def Obligations.PreloadZerosSetsDestination : Prop :=
  ∀ (s : State) (arg1 arg2 : ArgWord),
    arg1.extractLsb' 0 32 = 0xFFFFFFFF#32 → PreloadDestOk s arg2 → s.destValid = false →
    exec (.preload arg1 arg2) s
      = .next { s with pendwValid := false, dest := arg2.extractLsb' 0 32, destValid := true }

/-- PRELOAD's checks, in the order its rule writes them (43_matmul R171, 60_exceptions R222). -/
def Obligations.PreloadFaultsInOrder : Prop :=
  ∀ (s : State) (arg1 arg2 : ArgWord),
    let faults := fun c => FaultsWith (.preload arg1 arg2) s c (exec (.preload arg1 arg2) s)
    let noWeight := laOf arg1 = sentinel
    let weightOk := noWeight ∨ (s.cfgEx.valid = true ∧ LegalAddress arg1 [(.sp, false)] ∧ RowsInRange s arg1 s.params.dim)
    let destLegal := laOf arg2 = sentinel ∨ LegalAddress arg2 [(.sp, false), (.sp, true), (.acc, false), (.acc, true)]
    (¬ noWeight → s.cfgEx.valid = false → faults .configNotSet) ∧
    (¬ noWeight → s.cfgEx.valid = true → ¬ LegalAddress arg1 [(.sp, false)] → faults .illegalAddress) ∧
    (s.cfgEx.valid = true → LegalAddress arg1 [(.sp, false)] → ¬ RowsInRange s arg1 s.params.dim → faults .rowOutOfRange) ∧
    (weightOk → ¬ destLegal → faults .illegalAddress) ∧
    (weightOk → destLegal → ¬ RowsInRange s arg2 s.params.dim → faults .rowOutOfRange) ∧
    (weightOk → PreloadDestOk s arg2 → s.destValid = true → faults .preloadPending) ∧
    (∀ row i b, s.cfgEx.valid = true → NamesRows s arg1 .sp false row s.params.dim → PreloadDestOk s arg2 →
      s.destValid = false → i < s.params.dim → b < s.params.dim * s.cfgEx.width / 8 → s.spByte (row + i) b = none →
      faults .uninitRead)

/-- COMPUTE.PRE under WIDE leaves A·PENDW + D, added onto the resident tile under the accumulate bit, in ACC, makes PENDW
resident and consumes the PRELOAD; nothing else changes (43_matmul R172, 41_arithmetic R132, R134). -/
def Obligations.ComputePreWideUpdatesAccumulator : Prop :=
  ∀ (s : State) (arg1 arg2 : ArgWord) (a d old : Nat → Nat → Int) (accum : Bool) (c : Nat),
    let sum := fun i j => old i j + stepProduct s.params.dim a (tileAt s.pendw) d i j
    ComputeReady s arg1 arg2 a d → s.pendwValid = true → s.cfgQ.policy = .wide → DestNames s .acc accum c →
    (accum = false → ∀ i j, old i j = 0) →
    (accum = true → ∀ i j, i < s.params.dim → j < s.params.dim → s.accElem (c + i) j = some (old i j)) →
    (∀ i j, i < s.params.dim → j < s.params.dim → inAcc s.params (sum i j) = true) →
    ∃ t, exec (.computePre arg1 arg2) s = .next t ∧
      t = { s with acc := t.acc, wreg := s.pendw, wregValid := true, pendwValid := false, destValid := false } ∧
      ∀ r j, t.accElem r j =
        if c ≤ r ∧ r < c + s.params.dim ∧ j < s.params.dim then some (sum (r - c) j) else s.accElem r j

/-- COMPUTE.ACC under WIDE does the same with WREG, which it keeps (43_matmul R173, 41_arithmetic R132, R134). -/
def Obligations.ComputeAccWideUpdatesAccumulator : Prop :=
  ∀ (s : State) (arg1 arg2 : ArgWord) (a d old : Nat → Nat → Int) (accum : Bool) (c : Nat),
    let sum := fun i j => old i j + stepProduct s.params.dim a (tileAt s.wreg) d i j
    ComputeReady s arg1 arg2 a d → s.wregValid = true → s.pendwValid = false → s.cfgQ.policy = .wide →
    DestNames s .acc accum c →
    (accum = false → ∀ i j, old i j = 0) →
    (accum = true → ∀ i j, i < s.params.dim → j < s.params.dim → s.accElem (c + i) j = some (old i j)) →
    (∀ i j, i < s.params.dim → j < s.params.dim → inAcc s.params (sum i j) = true) →
    ∃ t, exec (.computeAcc arg1 arg2) s = .next t ∧ t = { s with acc := t.acc, destValid := false } ∧
      ∀ r j, t.accElem r j =
        if c ≤ r ∧ r < c + s.params.dim ∧ j < s.params.dim then some (sum (r - c) j) else s.accElem r j

/-- COMPUTE.PRE under PACKED rewrites the packed fields of DIM SP rows with the wrapped sum and leaves every other SP byte
(43_matmul R172, 41_arithmetic R135, R136). -/
def Obligations.ComputePrePackedUpdatesScratchpad : Prop :=
  ∀ (s : State) (arg1 arg2 : ArgWord) (a d cur : Nat → Nat → Int) (accum : Bool) (c : Nat),
    let w := s.cfgSt.width
    ComputeReady s arg1 arg2 a d → s.pendwValid = true → s.cfgQ.policy = .packed → DestNames s .sp accum c →
    (accum = false → ∀ i j, cur i j = 0) → (accum = true → HoldsTile s c w cur) →
    ∃ t, exec (.computePre arg1 arg2) s = .next t ∧
      t = { s with sp := t.sp, wreg := s.pendw, wregValid := true, pendwValid := false, destValid := false } ∧
      HoldsTile t c w (fun i j => wrap w (cur i j + stepProduct s.params.dim a (tileAt s.pendw) d i j)) ∧
      ∀ r b, ¬ (c ≤ r ∧ r < c + s.params.dim ∧ b < s.params.dim * w / 8) → t.spByte r b = s.spByte r b

/-- COMPUTE.ACC under PACKED does the same with WREG, which it keeps (43_matmul R173, 41_arithmetic R135, R136). -/
def Obligations.ComputeAccPackedUpdatesScratchpad : Prop :=
  ∀ (s : State) (arg1 arg2 : ArgWord) (a d cur : Nat → Nat → Int) (accum : Bool) (c : Nat),
    let w := s.cfgSt.width
    ComputeReady s arg1 arg2 a d → s.wregValid = true → s.pendwValid = false → s.cfgQ.policy = .packed →
    DestNames s .sp accum c →
    (accum = false → ∀ i j, cur i j = 0) → (accum = true → HoldsTile s c w cur) →
    ∃ t, exec (.computeAcc arg1 arg2) s = .next t ∧ t = { s with sp := t.sp, destValid := false } ∧
      HoldsTile t c w (fun i j => wrap w (cur i j + stepProduct s.params.dim a (tileAt s.wreg) d i j)) ∧
      ∀ r b, ¬ (c ≤ r ∧ r < c + s.params.dim ∧ b < s.params.dim * w / 8) → t.spByte r b = s.spByte r b

/-- A COMPUTE with a SENTINEL destination discards its result: only the weight and the sequencing bits change
(43_matmul R170, R172, R173). -/
def Obligations.ComputeWithoutOutputDiscards : Prop :=
  ∀ (s : State) (arg1 arg2 : ArgWord) (a d : Nat → Nat → Int),
    ComputeReady s arg1 arg2 a d → s.dest = 0xFFFFFFFF#32 →
    (s.pendwValid = true → exec (.computePre arg1 arg2) s
      = .next { s with wreg := s.pendw, wregValid := true, pendwValid := false, destValid := false }) ∧
    (s.wregValid = true → s.pendwValid = false → exec (.computeAcc arg1 arg2) s = .next { s with destValid := false })

/-- The checks of COMPUTE.PRE and COMPUTE.ACC, in the order their rules write them: configuration, addresses, sequencing,
the destination's address, then the data. An undef byte of A, of D or of an accumulated destination tile is UNINIT_READ; a
WIDE update reports the first failing element in row-major order, undef as UNINIT_READ, a sum out of range as ACC_OVERFLOW
(43_matmul R170, R172, R173, 41_arithmetic R133 to R135, 60_exceptions R222, R223). -/
def Obligations.ComputeFaultsInOrder : Prop :=
  ∀ (s : State) (arg1 arg2 : ArgWord),
    let pre := fun c => FaultsWith (.computePre arg1 arg2) s c (exec (.computePre arg1 arg2) s)
    let acc := fun c => FaultsWith (.computeAcc arg1 arg2) s c (exec (.computeAcc arg1 arg2) s)
    let configured := s.cfgEx.valid = true ∧ s.cfgQ.valid = true ∧ (s.cfgQ.policy = .packed → s.cfgSt.valid = true)
    let operandOk := LegalAddress arg1 [(.sp, false)] ∧ RowsInRange s arg1 s.params.dim
    let biasOk := laOf arg2 = sentinel ∨ (LegalAddress arg2 [(.sp, false)] ∧ RowsInRange s arg2 s.params.dim)
    let admitted := if s.cfgQ.policy = .wide then [(Space.acc, false), (.acc, true)] else [(Space.sp, false), (.sp, true)]
    let destOk := s.dest = sentinel ∨ ∃ la, decodeLa s.dest = some la ∧ la.rsv = false ∧ (la.space, la.accum) ∈ admitted ∧
      la.row + s.params.dim ≤ rowsOf s.params la.space
    let destFaults := fun (faults : Cause → Prop) =>
      ∀ la, configured → operandOk → biasOk → decodeLa s.dest = some la →
        (la.rsv = true ∨ (la.space, la.accum) ∉ admitted → faults .illegalAddress) ∧
        (la.rsv = false → (la.space, la.accum) ∈ admitted → rowsOf s.params la.space < la.row + s.params.dim →
          faults .rowOutOfRange)
    let dataFaults := fun (faults : Cause → Prop) (weight : Tile) =>
      (∀ row i b, configured → operandOk → biasOk → destOk →
        NamesRows s arg1 .sp false row s.params.dim ∨ NamesRows s arg2 .sp false row s.params.dim →
        i < s.params.dim → b < s.params.dim * s.cfgEx.width / 8 → s.spByte (row + i) b = none → faults .uninitRead) ∧
      ∀ (a d : Nat → Nat → Int) (accum : Bool) (c : Nat), ComputeReady s arg1 arg2 a d →
        (s.cfgQ.policy = .packed → DestNames s .sp true c → ∀ i b, i < s.params.dim →
          b < s.params.dim * s.cfgSt.width / 8 → s.spByte (c + i) b = none → faults .uninitRead) ∧
        (s.cfgQ.policy = .wide → DestNames s .acc accum c →
          let old := fun i j cur => if accum then s.accElem (c + i) j = some cur else cur = 0
          let sum := fun i j cur => cur + stepProduct s.params.dim a (tileAt weight) d i j
          ∀ i0 j0, i0 < s.params.dim → j0 < s.params.dim →
            (∀ i j, j < s.params.dim → (i < i0 ∨ (i = i0 ∧ j < j0)) →
              ∃ cur, old i j cur ∧ inAcc s.params (sum i j cur) = true) →
            (accum = true → s.accElem (c + i0) j0 = none → faults .uninitRead) ∧
            (∀ cur, old i0 j0 cur → inAcc s.params (sum i0 j0 cur) = false → faults .accOverflow))
    (¬ configured → pre .configNotSet ∧ acc .configNotSet) ∧
    (configured → ¬ LegalAddress arg1 [(.sp, false)] → pre .illegalAddress ∧ acc .illegalAddress) ∧
    (configured → LegalAddress arg1 [(.sp, false)] → ¬ RowsInRange s arg1 s.params.dim →
      pre .rowOutOfRange ∧ acc .rowOutOfRange) ∧
    (configured → operandOk → laOf arg2 ≠ sentinel → ¬ LegalAddress arg2 [(.sp, false)] →
      pre .illegalAddress ∧ acc .illegalAddress) ∧
    (configured → operandOk → LegalAddress arg2 [(.sp, false)] → ¬ RowsInRange s arg2 s.params.dim →
      pre .rowOutOfRange ∧ acc .rowOutOfRange) ∧
    (configured → operandOk → biasOk → s.destValid = false → pre .noDestination ∧ acc .noDestination) ∧
    (configured → operandOk → biasOk → s.destValid = true → s.pendwValid = false → pre .noPreloadedWeight) ∧
    (configured → operandOk → biasOk → s.destValid = true → s.wregValid = false → acc .noResidentWeight) ∧
    (configured → operandOk → biasOk → s.destValid = true → s.wregValid = true → s.pendwValid = true →
      acc .unusedWeight) ∧
    (s.destValid = true →
      (s.pendwValid = true → destFaults pre ∧ dataFaults pre s.pendw) ∧
      (s.wregValid = true → s.pendwValid = false → destFaults acc ∧ dataFaults acc s.wreg))

/-! ### PACK and UNPACK -/

/-- PACK clamps and packs K accumulator elements into the first ceil(K·W/8) bytes of one SP row and changes nothing else
(40_codec R113). -/
def Obligations.PackWritesPackedRow : Prop :=
  ∀ (s : State) (k : BitVec 16) (lw : BitVec 2) (arg1 arg2 : ArgWord) (src dst : Nat) (x : Nat → Int),
    k.toNat ≤ s.params.dim → NamesRows s arg1 .acc false src 1 → NamesRows s arg2 .sp false dst 1 →
    (∀ j, j < k.toNat → s.accElem src j = some (x j)) →
    ∃ t, exec (.pack k lw arg1 arg2) s = .next t ∧ t = { s with sp := t.sp } ∧
      (∀ r b, t.spByte r b =
        if r = dst ∧ b < (k.toNat * 2 ^ lw.toNat + 7) / 8
        then some ((packSeq (2 ^ lw.toNat) ((List.range k.toNat).map x)).getD b 0) else s.spByte r b) ∧
      ∀ j, j < k.toNat → spField t dst (2 ^ lw.toNat) j = some (clamp (2 ^ lw.toNat) (x j))

/-- UNPACK sign-extends K fields of one SP row into one ACC row, added onto it under the accumulate bit, and changes
nothing else (40_codec R114). -/
def Obligations.UnpackWritesElements : Prop :=
  ∀ (s : State) (k : BitVec 16) (lw : BitVec 2) (arg1 arg2 : ArgWord) (src dst : Nat) (accum : Bool) (v old : Nat → Int),
    k.toNat ≤ s.params.dim → NamesRows s arg1 .sp false src 1 → NamesRows s arg2 .acc accum dst 1 →
    (∀ j, j < k.toNat → spField s src (2 ^ lw.toNat) j = some (v j)) →
    (accum = false → ∀ j, old j = 0) →
    (accum = true → ∀ j, j < k.toNat → s.accElem dst j = some (old j) ∧ inAcc s.params (old j + v j) = true) →
    ∃ t, exec (.unpack k lw arg1 arg2) s = .next t ∧ t = { s with acc := t.acc } ∧
      ∀ r j, t.accElem r j = if r = dst ∧ j < k.toNat then some (old j + v j) else s.accElem r j

/-- R115: PACK then UNPACK at the same W, with no accumulate bit, leaves every element clamped. -/
def Obligations.PackThenUnpackClamps : Prop :=
  ∀ (s : State) (k : BitVec 16) (lw : BitVec 2) (acc1 sp acc2 : ArgWord) (r row r' : Nat) (x : Nat → Int),
    k.toNat ≤ s.params.dim → NamesRows s acc1 .acc false r 1 → NamesRows s sp .sp false row 1 →
    NamesRows s acc2 .acc false r' 1 → (∀ j, j < k.toNat → s.accElem r j = some (x j)) →
    ∃ t u, exec (.pack k lw acc1 sp) s = .next t ∧ exec (.unpack k lw sp acc2) t = .next u ∧
      ∀ j, j < k.toNat → u.accElem r' j = some (clamp (2 ^ lw.toNat) (x j))

/-- The checks of PACK and UNPACK, in the order their rules write them: count, addresses, source data, and, for an
accumulating UNPACK, its first failing element, undef as UNINIT_READ, a sum out of range as ACC_OVERFLOW (40_codec R113,
R114, 41_arithmetic R131, 60_exceptions R222). -/
def Obligations.PackUnpackFaultsInOrder : Prop :=
  ∀ (s : State) (k : BitVec 16) (lw : BitVec 2) (arg1 arg2 : ArgWord),
    let pack := fun c => FaultsWith (.pack k lw arg1 arg2) s c (exec (.pack k lw arg1 arg2) s)
    let unpack := fun c => FaultsWith (.unpack k lw arg1 arg2) s c (exec (.unpack k lw arg1 arg2) s)
    let packOk := LegalAddress arg1 [(.acc, false)] ∧ RowsInRange s arg1 1
    let unpackOk := LegalAddress arg1 [(.sp, false)] ∧ RowsInRange s arg1 1
    let accs : List (Space × Bool) := [(.acc, false), (.acc, true)]
    (s.params.dim < k.toNat → pack .countOutOfRange ∧ unpack .countOutOfRange) ∧
    (k.toNat ≤ s.params.dim →
      (¬ LegalAddress arg1 [(.acc, false)] → pack .illegalAddress) ∧
      (LegalAddress arg1 [(.acc, false)] → ¬ RowsInRange s arg1 1 → pack .rowOutOfRange) ∧
      (packOk → ¬ LegalAddress arg2 [(.sp, false)] → pack .illegalAddress) ∧
      (packOk → LegalAddress arg2 [(.sp, false)] → ¬ RowsInRange s arg2 1 → pack .rowOutOfRange) ∧
      (∀ src dst j, NamesRows s arg1 .acc false src 1 → NamesRows s arg2 .sp false dst 1 → j < k.toNat →
        s.accElem src j = none → pack .uninitRead) ∧
      (¬ LegalAddress arg1 [(.sp, false)] → unpack .illegalAddress) ∧
      (LegalAddress arg1 [(.sp, false)] → ¬ RowsInRange s arg1 1 → unpack .rowOutOfRange) ∧
      (unpackOk → ¬ LegalAddress arg2 accs → unpack .illegalAddress) ∧
      (unpackOk → LegalAddress arg2 accs → ¬ RowsInRange s arg2 1 → unpack .rowOutOfRange) ∧
      (∀ src dst accum b, NamesRows s arg1 .sp false src 1 → NamesRows s arg2 .acc accum dst 1 →
        b < (k.toNat * 2 ^ lw.toNat + 7) / 8 → s.spByte src b = none → unpack .uninitRead) ∧
      (∀ src dst (v : Nat → Int) j0, NamesRows s arg1 .sp false src 1 → NamesRows s arg2 .acc true dst 1 →
        (∀ j, j < k.toNat → spField s src (2 ^ lw.toNat) j = some (v j)) → j0 < k.toNat →
        (∀ j, j < j0 → ∃ cur, s.accElem dst j = some cur ∧ inAcc s.params (cur + v j) = true) →
        (s.accElem dst j0 = none → unpack .uninitRead) ∧
        (∀ cur, s.accElem dst j0 = some cur → inAcc s.params (cur + v j0) = false → unpack .accOverflow)))

/-! ### All commands -/

/-- What each command can write when it does not fault: the write columns of 10_state R39, and nothing else. -/
def Obligations.CommandsWriteOnlyTheirState : Prop :=
  ∀ (i : Instr) (s t : State), s.halted = false → exec i s = .next t → t.halted = false →
    match i with
    | .cfgprec role _ _ _ => t = { s with
        cfgLd := if role = .ld then t.cfgLd else s.cfgLd
        cfgEx := if role = .ex then t.cfgEx else s.cfgEx
        cfgSt := if role = .st then t.cfgSt else s.cfgSt }
    | .cfgacc _ _ _ _ _ => t = { s with cfgQ := t.cfgQ }
    | .mvin _ arg2 => (t = { s with sp := t.sp } ∧ arg2.getLsbD 31 = false) ∨
        (t = { s with acc := t.acc } ∧ arg2.getLsbD 31 = true)
    | .mvout _ _ => t = { s with mem := t.mem }
    | .preload _ _ => t = { s with pendw := t.pendw, pendwValid := t.pendwValid, dest := t.dest, destValid := true }
    | .computePre _ _ => (t = { s with sp := t.sp, wreg := s.pendw, wregValid := true, pendwValid := false, destValid := false }
          ∧ s.cfgQ.policy = .packed) ∨
        (t = { s with acc := t.acc, wreg := s.pendw, wregValid := true, pendwValid := false, destValid := false }
          ∧ s.cfgQ.policy = .wide)
    | .computeAcc _ _ => (t = { s with sp := t.sp, destValid := false } ∧ s.cfgQ.policy = .packed) ∨
        (t = { s with acc := t.acc, destValid := false } ∧ s.cfgQ.policy = .wide)
    | .pack _ _ _ _ => t = { s with sp := t.sp }
    | .unpack _ _ _ _ => t = { s with acc := t.acc }
    | .fence _ _ => t = s
    | .flush _ _ => t = s

/-- After a completed COMPUTE neither a destination nor a weight is pending, and after a completed PRELOAD a destination
is: pairing, in every state where a pending weight has a pending destination (43_matmul R174). -/
def Obligations.ComputesConsumePreloads : Prop :=
  ∀ (s t : State) (arg1 arg2 : ArgWord), s.halted = false → t.halted = false →
    (exec (.computePre arg1 arg2) s = .next t →
      s.destValid = true ∧ s.pendwValid = true ∧ t.destValid = false ∧ t.pendwValid = false ∧ t.wreg = s.pendw) ∧
    (exec (.computeAcc arg1 arg2) s = .next t →
      s.destValid = true ∧ s.wregValid = true ∧ t.destValid = false ∧ t.pendwValid = false ∧ t.wreg = s.wreg) ∧
    (exec (.preload arg1 arg2) s = .next t → s.destValid = false ∧ t.destValid = true ∧ t.wreg = s.wreg)

/-! ### The block step and faults -/

/-- With the block running, the head packet leaves Q and its instruction is executed, on a step with no turn left and on a
block turn (60_exceptions R241, R242). That the turns are a list in the state is the model's choice (log 5). -/
def Obligations.StepRunsDecodedInstruction : Prop :=
  ∀ (s : State) (p : Packet) (rest : List Packet) (i : Instr), s.halted = false → s.queue = p :: rest → decode p = .ok i →
    (s.events = [] → step s = exec i { s with queue := rest }) ∧
    (∀ es, s.events = .block :: es → step s = exec i { s with queue := rest, events := es })

/-- A command that faults has only the fault entry and its removal from Q as effects, and the record is its packet, bit
for bit (60_exceptions R226, R227). -/
def Obligations.FaultsArePrecise : Prop :=
  ∀ (s t : State) (p : Packet) (rest : List Packet), s.halted = false → s.queue = p :: rest → blockStep s = .next t →
    t.halted = true →
    ∃ c, c ≠ .none ∧ t = { s with queue := rest, halted := true, cause := c, fcmd := p.cmd, farg1 := p.arg1, farg2 := p.arg2 }

/-- R251: reset is the only way to clear the fault record; while halted nothing else of the block changes either
(60_exceptions R228). -/
def Obligations.OnlyResetClearsTheFaultRecord : Prop :=
  ∀ s t : State, s.halted = true → step s = .next t →
    (t = { s with
        mem := t.mem, hostWait := t.hostWait, outstanding := t.outstanding, unfenced := t.unfenced, events := t.events,
        replies := t.replies }) ∨
    (∃ es, s.events = .host .reset :: es ∧ t = { s.blockReset with events := es })

/-- CFG_LD, CFG_EX, CFG_ST and CFG_Q change only by CFGPREC, CFGACC and reset (42_config R162). -/
def Obligations.ConfigurationLastsUntilChanged : Prop :=
  ∀ s t : State, step s = .next t →
    (t.cfgLd = s.cfgLd ∧ t.cfgEx = s.cfgEx ∧ t.cfgSt = s.cfgSt ∧ t.cfgQ = s.cfgQ) ∨
    (∃ p rest role log2w a b, s.queue = p :: rest ∧ t.queue = rest ∧ decode p = .ok (.cfgprec role log2w a b)) ∨
    (∃ p rest shift relu policy a b, s.queue = p :: rest ∧ t.queue = rest ∧ decode p = .ok (.cfgacc shift relu policy a b)) ∨
    (∃ es, s.events = .host .reset :: es)

/-- WREG and WVALID change only by COMPUTE.PRE and reset (10_state R33). -/
def Obligations.ResidentWeightLastsUntilComputePre : Prop :=
  ∀ s t : State, step s = .next t →
    (t.wreg = s.wreg ∧ t.wregValid = s.wregValid) ∨
    (∃ p rest a b, s.queue = p :: rest ∧ t.queue = rest ∧ decode p = .ok (.computePre a b) ∧ t.wreg = s.pendw) ∨
    (∃ es, s.events = .host .reset :: es)

/-! ### The host -/

/-- Host reads of STATUS, FARG1 and FARG2 return the words and have no side effect (60_exceptions R240, 20_memory R60);
the fields of STATUS (10_state R34) and the cause codes (60_exceptions R221). -/
def Obligations.HostReadsFaultRegisters : Prop :=
  ∀ (s : State) (es : List Event),
    (s.hostWait = false →
      (s.events = .host .readStatus :: es → step s = .next { s with events := es, replies := s.statusWord :: s.replies }) ∧
      (s.events = .host .readFarg1 :: es → step s = .next { s with events := es, replies := s.farg1 :: s.replies }) ∧
      (s.events = .host .readFarg2 :: es → step s = .next { s with events := es, replies := s.farg2 :: s.replies })) ∧
    s.statusWord.getLsbD 0 = s.halted ∧ (s.statusWord.getLsbD 1 = true ↔ s.queue ≠ []) ∧
    s.statusWord.extractLsb' 2 6 = 0#6 ∧ s.statusWord.extractLsb' 8 8 = s.cause.code ∧
    s.statusWord.extractLsb' 16 16 = 0#16 ∧ s.statusWord.extractLsb' 32 32 = s.fcmd ∧
    [Cause.none, .illegalCommand, .configViolation, .configNotSet, .illegalAddress, .rowOutOfRange, .memOutOfRange,
      .countOutOfRange, .noDestination, .noPreloadedWeight, .noResidentWeight, .unusedWeight, .preloadPending, .uninitRead,
      .accOverflow].map (fun c => c.code.toNat) = List.range 15

/-- A push is discarded while halted, waits while Q is full, and else appends the packet and, for OPCODE 0x10 and 0x11,
its footprint (60_exceptions R240, 20_memory R65). -/
def Obligations.PushAppendsWaitsOrIsDiscarded : Prop :=
  ∀ (s : State) (p : Packet) (es : List Event), s.events = .host (.push p) :: es → s.hostWait = false →
    (s.halted = true → step s = .next { s with events := es }) ∧
    (s.halted = false → s.params.qdepth ≤ s.queue.length → step s = blockStep s) ∧
    (s.halted = false → s.queue.length < s.params.qdepth →
      step s = .next { s with
        events := es
        queue := s.queue ++ [p]
        outstanding := s.outstanding ++
          (if p.cmd.extractLsb' 0 8 = 0x10#8 ∨ p.cmd.extractLsb' 0 8 = 0x11#8
           then [⟨p.arg1.toNat, s.params.dim * s.params.dim⟩] else []) })

/-- A host read or write of MEM is performed, and sets UNFENCED exactly when the byte lies in an outstanding footprint;
outside MEM it is refused (20_memory R66, 60_exceptions R240). That the read's reply joins a list is the model's choice
(log 8), and so is that the byte is zero-extended to 64 bits there (log 17); the refusal's name is the model's (log 9). -/
def Obligations.HostMemoryAccess : Prop :=
  ∀ (s : State) (a : ArgWord) (v : Byte) (es : List Event), s.hostWait = false →
    let inFootprint := ∃ f ∈ s.outstanding, f.base ≤ a.toNat ∧ a.toNat < f.base + f.size
    (s.events = .host (.readMem a) :: es →
      (a.toNat < s.params.memSize → ∃ t, step s = .next t ∧
        t = { s with events := es, unfenced := t.unfenced, replies := (s.memByte a.toNat).setWidth 64 :: s.replies } ∧
        (t.unfenced = true ↔ s.unfenced = true ∨ inFootprint)) ∧
      (s.params.memSize ≤ a.toNat → step s = .refused .hostAddressOutOfRange)) ∧
    (s.events = .host (.writeMem a v) :: es →
      (a.toNat < s.params.memSize → ∃ t, step s = .next t ∧
        t = { s with events := es, unfenced := t.unfenced, mem := t.mem } ∧
        (t.unfenced = true ↔ s.unfenced = true ∨ inFootprint) ∧
        ∀ a', t.memByte a' = if a' = a.toNat then v else s.memByte a') ∧
      (s.params.memSize ≤ a.toNat → step s = .refused .hostAddressOutOfRange))

/-- The host fence pushes a FENCE packet and waits: with Q full the push waits first, and while the block is halted the
packet is discarded and the wait ends at once. While it waits with Q not empty and the block running, the host takes no
action but reset; it completes when Q is empty or the block is halted, emptying OUTSTANDING (45_sync R211, 60_exceptions
R240). That the completion is a step of its own is the model's choice (log 7). -/
def Obligations.FenceWaitsForTheQueue : Prop :=
  ∀ (s : State),
    (∀ es, s.events = .host .fence :: es → s.hostWait = false → s.halted = false → s.queue.length < s.params.qdepth →
      step s = .next { s with events := es, queue := s.queue ++ [⟨0x00000040#32, 0#64, 0#64⟩], hostWait := true }) ∧
    (∀ es, s.events = .host .fence :: es → s.hostWait = false → s.halted = false → s.params.qdepth ≤ s.queue.length →
      step s = blockStep s) ∧
    (∀ es, s.events = .host .fence :: es → s.hostWait = false → s.halted = true →
      ∃ t, step s = .next t ∧ t = { s with events := es, hostWait := true } ∧
        step t = .next { s with events := es, outstanding := [] }) ∧
    (∀ a es, s.events = .host a :: es → a ≠ .reset → s.hostWait = true → s.halted = false → s.queue ≠ [] →
      step s = blockStep s) ∧
    (s.hostWait = true → s.halted = true ∨ s.queue = [] → step s = .next { s with hostWait := false, outstanding := [] })

/-- A waiting fence ends within as many steps as Q has packets, and one more, whatever turns are still to come
(45_sync R211, 60_exceptions R242). The steps counted are the model's, and the one more is the model's choice that a fence
completes in a step of its own, before any other turn (log 7); no rule of the spec bounds the wait in time (70_reset R264). -/
def Obligations.FenceCompletesWithinTheQueue : Prop :=
  ∀ s : State, s.hostWait = true →
    ∃ k, k ≤ s.queue.length + 1 ∧ ∃ t : State, Host.Core.run Sys2Proof.core k s = .next t ∧ t.hostWait = false ∧ t.outstanding = []

/-- A host write of a MEM byte outside every outstanding footprint, before the block's next step or after it, gives the
same bytes of MEM, the same scratchpad and accumulators, and every other field, as long as every move command in Q is
outstanding (20_memory R63, R65, R66, R71). -/
def Obligations.FencedHostWriteCommutesWithBlock : Prop :=
  ∀ (s t : State) (a : Nat) (v : Byte), QueueOutstanding s → ConfigLegal s →
    (∀ f ∈ s.outstanding, ¬ (f.base ≤ a ∧ a < f.base + f.size)) →
    blockStep s = .next t →
    ∃ u, blockStep { s with mem := s.mem.write a v } = .next u ∧ u = { t with mem := u.mem } ∧
      ∀ a', u.memByte a' = if a' = a then v else t.memByte a'

/-- R253: reset changes neither MEM nor UNFENCED; it leaves the rest as the table of R38, from any state, halted or with
packets in Q (70_reset R250, R252, R254). When a waiting fence may complete, that step comes first (log 7). -/
def Obligations.ResetLeavesTheTable : Prop :=
  ∀ (s : State) (es : List Event), s.events = .host .reset :: es → s.fenceDone = false →
    ∃ t, step s = .next t ∧ t.params = s.params ∧ t.mem = s.mem ∧ t.unfenced = s.unfenced ∧
      (∀ r b, t.spByte r b = none) ∧ (∀ r j, t.accElem r j = none) ∧
      t.cfgLd.valid = false ∧ t.cfgEx.valid = false ∧ t.cfgSt.valid = false ∧ t.cfgQ.valid = false ∧
      t.pendwValid = false ∧ t.destValid = false ∧ t.wregValid = false ∧ t.statusWord = 0#64 ∧ t.farg1 = 0#64 ∧
      t.farg2 = 0#64 ∧ t.queue = [] ∧ t.hostWait = false ∧ t.outstanding = []

/-! ### Invariants that every step keeps -/

/-- The invariants hold right after reset. MEM and weight tiles of all zero and the parameters are the model's
choice (log 1, log 2, log 3). -/
def Obligations.ResetMeetsTheInvariants : Prop :=
  State.reset.params.Valid ∧ StorageCanonical State.reset ∧ AccInRange State.reset ∧ WeightsInRange State.reset ∧
    ConfigLegal State.reset ∧ WeightHasDestination State.reset ∧ DestinationLegal State.reset ∧ FaultRecorded State.reset ∧
    QueueBounded State.reset ∧ QueueOutstanding State.reset

/-- Every step keeps the parameters, and the canonical, in-range form of MEM, SP and ACC (10_state R24, R25, R28). -/
def Obligations.StepKeepsStorageCanonical : Prop :=
  ∀ s t : State, StorageCanonical s → step s = .next t → t.params = s.params ∧ StorageCanonical t

/-- Every step keeps every accumulator element in the accumulator's range (10_state R25, 41_arithmetic R131). -/
def Obligations.StepKeepsAccumulatorInRange : Prop :=
  ∀ s t : State, s.params.Valid → AccInRange s → step s = .next t → AccInRange t

/-- Every step keeps PENDW and WREG arrays of DIM x DIM elements in [-128, 127] (10_state R31, R33). -/
def Obligations.StepKeepsWeightsInRange : Prop :=
  ∀ s t : State, WeightsInRange s → step s = .next t → WeightsInRange t

/-- Every step keeps the precision registers legal: only CFGPREC's checked values are ever valid (10_state R29). -/
def Obligations.StepKeepsConfigLegal : Prop :=
  ∀ s t : State, ConfigLegal s → step s = .next t → ConfigLegal t

/-- Every step keeps the pairing of weight and destination, and the pending destination checked (43_matmul R171, R174). -/
def Obligations.StepKeepsSequencing : Prop :=
  ∀ s t : State, WeightHasDestination s → DestinationLegal s → step s = .next t →
    WeightHasDestination t ∧ DestinationLegal t

/-- Every step keeps the fault record: clear while running, a named cause while halted (10_state R34, R35). -/
def Obligations.StepKeepsFaultRecord : Prop :=
  ∀ s t : State, FaultRecorded s → step s = .next t → FaultRecorded t

/-- Every step keeps Q within QDEPTH, and every queued move command's footprint outstanding while the block runs
(10_state R36, R37, 20_memory R65). -/
def Obligations.StepKeepsQueueOutstanding : Prop :=
  ∀ s t : State, QueueBounded s → QueueOutstanding s → step s = .next t →
    QueueBounded t ∧ QueueOutstanding t
end

