-- ==== Sys2Proof/Laws/Checks.lean ====
section
/-! SUPPORT. What the checks can do: `require`, sequencing, row-major collection, `check_la`, reads of SP and ACC, and how
a command settles. -/

namespace Sys2Proof.Machine

/-- Two checks in sequence succeed when both do. -/
theorem bind_ok {α β : Type} {x : Except Cause α} {f : α → Except Cause β} {b : β} :
    (x >>= f) = .ok b ↔ ∃ a, x = .ok a ∧ f a = .ok b := by
  cases x <;> simp [bind, Except.bind]

/-- Two checks in sequence fail with the first failure. -/
theorem bind_error {α β : Type} {x : Except Cause α} {f : α → Except Cause β} {c : Cause} :
    (x >>= f) = .error c ↔ x = .error c ∨ ∃ a, x = .ok a ∧ f a = .error c := by
  cases x <;> simp [bind, Except.bind]

/-- A success followed by `f`. -/
@[simp] theorem ok_bind {α β : Type} (a : α) (f : α → Except Cause β) : ((.ok a : Except Cause α) >>= f) = f a := rfl

/-- A failure followed by anything. -/
@[simp] theorem error_bind {α β : Type} (c : Cause) (f : α → Except Cause β) :
    ((.error c : Except Cause α) >>= f) = .error c := rfl

/-- `require` succeeds exactly when its condition holds. -/
@[simp] theorem require_ok {c : Prop} [Decidable c] {f : Cause} {u : Unit} : require c f = .ok u ↔ c := by
  by_cases h : c <;> simp [require, h]

/-- `require` fails with its cause exactly when its condition does not hold. -/
@[simp] theorem require_error {c : Prop} [Decidable c] {f e : Cause} : require c f = .error e ↔ ¬ c ∧ f = e := by
  by_cases h : c <;> simp [require, h]

/-- A condition that holds passes. -/
theorem require_pos {c : Prop} [Decidable c] (h : c) (f : Cause) : require c f = .ok () := by simp [require, h]

/-- A condition that does not hold fails. -/
theorem require_neg {c : Prop} [Decidable c] (h : ¬ c) (f : Cause) : require c f = .error f := by simp [require, h]

/-- What `gather` collects. -/
theorem gather_ok {α : Type} {f : Nat → Except Cause α} {n : Nat} {xs : List α} :
    gather f n = .ok xs ↔ xs.length = n ∧ ∀ j (h : j < xs.length), f j = .ok xs[j] := by
  induction n generalizing xs with
  | zero =>
    constructor
    · intro h
      simp only [gather, Except.ok.injEq] at h
      subst h; simp
    · rintro ⟨h, -⟩
      simp [gather, List.length_eq_zero_iff.1 h]
  | succ n ih =>
    simp only [gather, bind_ok, Except.ok.injEq]
    constructor
    · rintro ⟨ys, hys, y, hy, rfl⟩
      obtain ⟨hl, hf⟩ := ih.1 hys
      refine ⟨by simp [hl], fun j hj => ?_⟩
      by_cases hjn : j < ys.length
      · rw [List.getElem_append_left hjn]; exact hf j hjn
      · have hjn' : j = n := by simp at hj; omega
        subst hjn'
        rw [List.getElem_append_right (by omega)]
        simpa [hl] using hy
    · rintro ⟨hl, hf⟩
      have hx : xs ≠ [] := by intro h; simp [h] at hl
      refine ⟨xs.dropLast, ih.2 ⟨by simp [hl], fun j hj => ?_⟩, xs.getLast hx, ?_, List.dropLast_append_getLast hx⟩
      · simp only [List.length_dropLast] at hj
        rw [List.getElem_dropLast]
        exact hf j (by omega)
      · have h1 := hf n (by omega)
        rw [List.getLast_eq_getElem]
        simpa only [hl, Nat.add_sub_cancel] using h1

/-- When every element succeeds, `gather` does. -/
theorem gather_of_forall {α : Type} {f : Nat → Except Cause α} {n : Nat} {g : Nat → α}
    (h : ∀ j, j < n → f j = .ok (g j)) : gather f n = .ok ((List.range n).map g) := by
  refine gather_ok.2 ⟨by simp, fun j hj => ?_⟩
  simp at hj ⊢
  exact h j hj

/-- A failure of `gather` is the first failure (60_exceptions R222). -/
theorem gather_error {α : Type} {f : Nat → Except Cause α} {n : Nat} {c : Cause} :
    gather f n = .error c ↔ ∃ j, j < n ∧ f j = .error c ∧ ∀ k, k < j → ∃ x, f k = .ok x := by
  induction n generalizing c with
  | zero => simp [gather]
  | succ n ih =>
    simp only [gather, bind_error, ih]
    constructor
    · rintro (⟨j, hj, h, hk⟩ | ⟨xs, hxs, h | ⟨a, -, h⟩⟩)
      · exact ⟨j, by omega, h, hk⟩
      · obtain ⟨hl, hf⟩ := gather_ok.1 hxs
        exact ⟨n, by omega, h, fun k hk => ⟨_, hf k (by omega)⟩⟩
      · simp at h
    · rintro ⟨j, hj, h, hk⟩
      by_cases hjn : j < n
      · exact .inl ⟨j, hjn, h, hk⟩
      · have : j = n := by omega
        subst this
        cases hg : gather f j with
        | ok xs => exact .inr ⟨xs, rfl, .inl h⟩
        | error e =>
          obtain ⟨j', hj', h', -⟩ := ih.1 hg
          obtain ⟨x, hx⟩ := hk j' hj'
          simp [hx] at h'

end Sys2Proof.Machine
end

