-- ==== Sys2Proof/Laws/Operands.lean ====
section
/-! SUPPORT. What `check_la`, the reads of SP and ACC, and the element updates can answer. -/

namespace Sys2Proof.Machine

/-- A local address passes `check_la` exactly when it is no sentinel, its reserved bit is 0, its space and accumulate bit
are admitted, and its rows are in range (30_encoding R85). -/
theorem checkLa_ok {p : Params} {la : LocalWord} {allowed : List (Space × Bool)} {n : Nat} {a : LocalAddr} :
    checkLa p la allowed n = .ok a ↔
      decodeLa la = some a ∧ a.rsv = false ∧ (a.space, a.accum) ∈ allowed ∧ a.row + n ≤ rowsOf p a.space := by
  unfold checkLa
  cases h : decodeLa la with
  | none => simp
  | some b =>
    simp only [bind_ok, require_ok, Except.ok.injEq, Option.some.injEq, exists_and_left, exists_const]
    constructor
    · rintro ⟨h1, h2, h3, rfl⟩; exact ⟨rfl, h1, h2, h3⟩
    · rintro ⟨rfl, h1, h2, h3⟩; exact ⟨h1, h2, h3, rfl⟩

/-- A local address that fails `check_la` raises ILLEGAL_ADDRESS or ROW_OUT_OF_RANGE (30_encoding R85). -/
theorem checkLa_error {p : Params} {la : LocalWord} {allowed : List (Space × Bool)} {n : Nat} {c : Cause}
    (h : checkLa p la allowed n = .error c) : c = .illegalAddress ∨ c = .rowOutOfRange := by
  unfold checkLa at h
  cases hd : decodeLa la with
  | none => simp [hd] at h; exact .inl h.symm
  | some b =>
    simp only [hd, bind_error, require_ok, require_error] at h
    rcases h with ⟨-, rfl⟩ | ⟨-, -, ⟨-, rfl⟩ | ⟨-, -, ⟨-, rfl⟩ | ⟨-, -, h⟩⟩⟩
    · exact .inl rfl
    · exact .inl rfl
    · exact .inr rfl
    · simp at h

/-- SENTINEL is the only local address without fields (30_encoding R84). -/
@[simp] theorem decodeLa_eq_none {la : LocalWord} : decodeLa la = none ↔ la = sentinel := by
  unfold decodeLa
  by_cases h : la = sentinel <;> simp [h]

/-- A command reads an SP byte that is a value (10_state R27). -/
@[simp] theorem readSp_ok {s : State} {r b : Nat} {v : Byte} : readSp s r b = .ok v ↔ s.spByte r b = some v := by
  unfold readSp
  cases s.spByte r b <;> simp

/-- A command that reads an undef SP byte raises UNINIT_READ (10_state R27). -/
@[simp] theorem readSp_error {s : State} {r b : Nat} {c : Cause} :
    readSp s r b = .error c ↔ s.spByte r b = none ∧ c = .uninitRead := by
  unfold readSp
  cases s.spByte r b <;> simp [eq_comm]

/-- A command reads an ACC element that is a value (10_state R27). -/
@[simp] theorem readAcc_ok {s : State} {r j : Nat} {v : Int} : readAcc s r j = .ok v ↔ s.accElem r j = some v := by
  unfold readAcc
  cases s.accElem r j <;> simp

/-- A command that reads an undef ACC element raises UNINIT_READ (10_state R27). -/
@[simp] theorem readAcc_error {s : State} {r j : Nat} {c : Cause} :
    readAcc s r j = .error c ↔ s.accElem r j = none ∧ c = .uninitRead := by
  unfold readAcc
  cases s.accElem r j <;> simp [eq_comm]

/-- What an MVIN or UNPACK element is stored as (44_move R195, 40_codec R114). -/
theorem addResident_ok {s : State} {accum : Bool} {r j : Nat} {v x : Int} :
    addResident s accum r j v = .ok x ↔
      (accum = false ∧ x = v) ∨
      (accum = true ∧ ∃ cur, s.accElem r j = some cur ∧ inAcc s.params (cur + v) = true ∧ x = cur + v) := by
  rw [@eq_comm _ x v]
  cases accum
  · simp [addResident]
  · simp [addResident, bind_ok, @eq_comm _ x]

/-- What a wide element is stored as (41_arithmetic R134). -/
theorem wideElem_ok {s : State} {accum : Bool} {r j : Nat} {v x : Int} :
    wideElem s accum r j v = .ok x ↔
      ∃ cur, (if accum then s.accElem r j = some cur else cur = 0) ∧ inAcc s.params (cur + v) = true ∧ x = cur + v := by
  cases accum
  · simp [wideElem, residentElem, bind_ok, @eq_comm _ x]
  · simp [wideElem, residentElem, bind_ok, @eq_comm _ x]

/-- The rows and columns of a collected grid. -/
theorem gatherGrid_ok {α : Type} {f : Nat → Nat → Except Cause α} {m n : Nat} {rows : List (List α)} :
    gatherGrid f m n = .ok rows ↔
      rows.length = m ∧ ∀ i (hi : i < rows.length), (rows[i]).length = n ∧
        ∀ j (hj : j < (rows[i]).length), f i j = .ok (rows[i])[j] := by
  simp only [gatherGrid, gather_ok]

/-- An element of a collected tile. -/
theorem gatherGrid_tileAt {f : Nat → Nat → Except Cause Int} {m n : Nat} {t : Tile} (h : gatherGrid f m n = .ok t)
    {i j : Nat} (hi : i < m) (hj : j < n) : f i j = .ok (tileAt t i j) := by
  obtain ⟨hl, hr⟩ := gatherGrid_ok.1 h
  have hi' : i < t.length := by omega
  obtain ⟨hl', hc⟩ := hr i hi'
  have hj' : j < (t[i]).length := by omega
  simpa [tileAt, List.getD_eq_getElem?_getD, List.getElem?_eq_getElem hi', List.getElem?_eq_getElem hj'] using hc j hj'

/-- An element of a collected grid, read with a default. -/
theorem gatherGrid_getD {α : Type} {f : Nat → Nat → Except Cause α} {m n : Nat} {rows : List (List α)}
    (h : gatherGrid f m n = .ok rows) (d : α) {i j : Nat} (hi : i < m) (hj : j < n) :
    f i j = .ok ((rows.getD i []).getD j d) := by
  obtain ⟨hl, hr⟩ := gatherGrid_ok.1 h
  have hi' : i < rows.length := by omega
  obtain ⟨hl', hc⟩ := hr i hi'
  have hj' : j < (rows[i]).length := by omega
  simpa [List.getD_eq_getElem?_getD, List.getElem?_eq_getElem hi', List.getElem?_eq_getElem hj'] using hc j hj'

/-- When every element succeeds, a grid is collected. -/
theorem gatherGrid_of_forall {α : Type} {f : Nat → Nat → Except Cause α} {m n : Nat} {g : Nat → Nat → α}
    (h : ∀ i j, i < m → j < n → f i j = .ok (g i j)) :
    gatherGrid f m n = .ok ((List.range m).map (fun i => (List.range n).map (g i))) :=
  gather_of_forall (fun i hi => gather_of_forall (fun j hj => h i j hi hj))

/-- An element of a tile written out by its function. -/
theorem tileAt_map_range (g : Nat → Nat → Int) (m n i j : Nat) (hi : i < m) (hj : j < n) :
    tileAt ((List.range m).map (fun i => (List.range n).map (g i))) i j = g i j := by
  simp [tileAt, List.getD_eq_getElem?_getD, hi, hj]

end Sys2Proof.Machine
end

