-- ==== Sys2Proof/Laws/Codec.lean ====
section
/-! SUPPORT. The small laws of the codec's pure functions, for the widths of 00_scope R6. -/

namespace Sys2Proof.Machine

/-- W is one of 1, 2, 4, 8 (00_scope R6). -/
theorem widthOfLw_cases (lw : BitVec 2) : widthOfLw lw = 1 ∨ widthOfLw lw = 2 ∨ widthOfLw lw = 4 ∨ widthOfLw lw = 8 := by
  revert lw; decide

/-- A precision register's width is one of 1, 2, 4, 8 (10_state R29). -/
theorem PrecisionReg.width_cases (r : PrecisionReg) : r.width = 1 ∨ r.width = 2 ∨ r.width = 4 ∨ r.width = 8 :=
  widthOfLw_cases r.log2w

/-- A precision register's width is at most 8. -/
theorem PrecisionReg.width_le (r : PrecisionReg) : r.width ≤ 8 := by
  rcases r.width_cases with h | h | h | h <;> omega

/-- A packed row fits in DIM bytes (00_scope R11). -/
theorem rowBytes_le (p : Params) {w : Nat} (h : w ≤ 8) : rowBytes p w ≤ p.dim := by
  unfold rowBytes
  exact Nat.div_le_of_le_mul (by nlinarith)

/-- K packed fields fit in K bytes (40_codec R107). -/
theorem packedLen_le (k : Nat) {w : Nat} (h : w ≤ 8) : packedLen k w ≤ k := by
  unfold packedLen
  have : k * w ≤ k * 8 := Nat.mul_le_mul_left k h
  omega

/-- A field by division and remainder (40_codec R104). -/
theorem fieldGet_eq (byte : Byte) (s w : Nat) : fieldGet byte s w = byte.toNat / 2 ^ (s * w) % 2 ^ w := by
  simp [fieldGet, Nat.shiftRight_eq_div_pow, Nat.and_two_pow_sub_one_eq_mod]

/-- A field is below 2^W (40_codec R104). -/
theorem fieldGet_lt (byte : Byte) (s w : Nat) : fieldGet byte s w < 2 ^ w := by
  rw [fieldGet_eq]; exact Nat.mod_lt _ (by positivity)

/-- `dec_W` of every field, by cases on its top bit (40_codec R102). -/
theorem dec_eq {w f : Nat} (hw : w = 1 ∨ w = 2 ∨ w = 4 ∨ w = 8) (hf : f < 2 ^ w) :
    dec w f = if f < 2 ^ (w - 1) then (f : Int) else f - 2 ^ w := by
  rcases hw with rfl | rfl | rfl | rfl
  · revert f; decide
  · revert f; decide
  · revert f; decide
  · revert f; decide +kernel

/-- The range of `dec_W` (40_codec R100, R102). -/
theorem dec_range {w f : Nat} (hw : w = 1 ∨ w = 2 ∨ w = 4 ∨ w = 8) (hf : f < 2 ^ w) :
    -2 ^ (w - 1) ≤ dec w f ∧ dec w f ≤ 2 ^ (w - 1) - 1 := by
  rw [dec_eq hw hf]
  rcases hw with rfl | rfl | rfl | rfl <;> (norm_num at hf ⊢; split_ifs <;> omega)

/-- A decoded element fits in eight signed bits (41_arithmetic R130). -/
theorem unpackSigned_range {w : Nat} (hw : w = 1 ∨ w = 2 ∨ w = 4 ∨ w = 8) (byte : Byte) (s : Nat) :
    -128 ≤ unpackSigned byte s w ∧ unpackSigned byte s w ≤ 127 := by
  have h := dec_range hw (fieldGet_lt byte s w)
  unfold unpackSigned
  rcases hw with rfl | rfl | rfl | rfl <;> (norm_num at h ⊢; omega)

/-- `pack_seq` answers ceil(K·W/8) bytes at every stage of its loop (40_codec R107). -/
theorem packUpTo_length (w : Nat) (v : List Int) (j : Nat) : (packUpTo w v j).length = packedLen v.length w := by
  induction j with
  | zero => simp [packUpTo]
  | succ j ih => simp [packUpTo, ih]

/-- `unpack_seq` answers K values (40_codec R108). -/
@[simp] theorem unpackSeq_length (w : Nat) (bytes : List Byte) (k : Nat) : (unpackSeq w bytes k).length = k := by
  simp [unpackSeq]

/-- The slot of a field of a width that divides 8 lies in its byte (00_scope R11). -/
theorem slot_lt {w : Nat} (hw : w = 1 ∨ w = 2 ∨ w = 4 ∨ w = 8) (j : Nat) : j % slots w < slots w :=
  Nat.mod_lt _ (by rcases hw with rfl | rfl | rfl | rfl <;> decide)

/-- A field of a packed row lies in the row's bytes when DIM·W is a multiple of 8 (00_scope R7, R11). -/
theorem byteIndex_lt {p : Params} {w j : Nat} (hw : w = 1 ∨ w = 2 ∨ w = 4 ∨ w = 8) (h : p.dim * w % 8 = 0)
    (hj : j < p.dim) : j / slots w < rowBytes p w := by
  rcases hw with rfl | rfl | rfl | rfl <;> simp only [slots, rowBytes] <;> omega

/-- The tile `sp_tile` reads is DIM x DIM, every byte it reads is defined, and each element is its decoded field
(40_codec R109). -/
theorem spTile_ok {s : State} {r w : Nat} {t : Tile} (h : spTile s r w = .ok t) :
    t.length = s.params.dim ∧ (∀ row ∈ t, row.length = s.params.dim) ∧
      (∀ i b, i < s.params.dim → b < rowBytes s.params w → ∃ v, s.spByte (r + i) b = some v) ∧
      (∀ i j v, i < s.params.dim → j < s.params.dim → j / slots w < rowBytes s.params w →
        s.spByte (r + i) (j / slots w) = some v → tileAt t i j = unpackSigned v (j % slots w) w) := by
  simp only [spTile, bind_ok, Except.ok.injEq] at h
  obtain ⟨rows, hg, rfl⟩ := h
  have hl := (gatherGrid_ok.1 hg).1
  refine ⟨by simp [hl], by simp, fun i b hi hb => ?_, fun i j v hi hj hb hv => ?_⟩
  · exact ⟨_, readSp_ok.1 (gatherGrid_getD hg 0 hi hb)⟩
  · have h1 := readSp_ok.1 (gatherGrid_getD hg 0 hi hb)
    rw [hv, Option.some.injEq] at h1
    have hi' : i < rows.length := by omega
    simp only [List.getD_eq_getElem?_getD, List.getElem?_eq_getElem hi', Option.getD_some] at h1
    simp [tileAt, unpackSeq, List.getD_eq_getElem?_getD, hi', hj, h1]

/-- Every element of the tile `sp_tile` reads fits in eight signed bits (41_arithmetic R130). -/
theorem spTile_range {s : State} {r w : Nat} (hw : w = 1 ∨ w = 2 ∨ w = 4 ∨ w = 8) {t : Tile} (h : spTile s r w = .ok t)
    (i j : Nat) : -128 ≤ tileAt t i j ∧ tileAt t i j ≤ 127 := by
  simp only [spTile, bind_ok, Except.ok.injEq] at h
  obtain ⟨rows, -, rfl⟩ := h
  by_cases hi : i < rows.length
  · by_cases hj : j < s.params.dim
    · simpa [tileAt, unpackSeq, List.getD_eq_getElem?_getD, hi, hj] using unpackSigned_range hw _ _
    · simp [tileAt, unpackSeq, List.getD_eq_getElem?_getD, hi, hj]
  · simp [tileAt, List.getD_eq_getElem?_getD, hi]

/-- When every byte of the packed rows is defined, `sp_tile` reads a tile (40_codec R109). -/
theorem spTile_total {s : State} {r w : Nat}
    (h : ∀ i b, i < s.params.dim → b < rowBytes s.params w → (s.spByte (r + i) b).isSome = true) :
    ∃ t, spTile s r w = .ok t := by
  have hg : gatherGrid (fun i b => readSp s (r + i) b) s.params.dim (rowBytes s.params w)
      = .ok ((List.range s.params.dim).map
          (fun i => (List.range (rowBytes s.params w)).map (fun b => (s.spByte (r + i) b).getD 0))) := by
    refine gatherGrid_of_forall (fun i b hi hb => readSp_ok.2 ?_)
    obtain ⟨v, hv⟩ := Option.isSome_iff_exists.1 (h i b hi hb)
    simp [hv]
  simp [spTile, hg]

/-- `in_acc` by its bounds (41_arithmetic R131). -/
theorem inAcc_iff {p : Params} {x : Int} :
    inAcc p x = true ↔ ∀ b, p.accBits = some b → -2 ^ (b - 1) ≤ x ∧ x ≤ 2 ^ (b - 1) - 1 := by
  unfold inAcc
  cases p.accBits <;> simp

/-- An element decoded at any width is in the accumulator's range (40_codec R114, 41_arithmetic R131). -/
theorem inAcc_of_byte {p : Params} (hp : p.Valid) {x : Int} (h1 : -128 ≤ x) (h2 : x ≤ 127) : inAcc p x = true := by
  rw [inAcc_iff]
  intro b hb
  have h9 : 8 < b := by simpa [hb] using hp.2.2.2.1
  have h3 : (2 : Int) ^ 8 ≤ 2 ^ (b - 1) := by
    exact pow_le_pow_right₀ (by norm_num) (by omega)
  constructor <;> norm_num at h3 ⊢ <;> omega

end Sys2Proof.Machine
end

