-- ==== Sys2Proof/Laws/State.lean ====
section
/-! SUPPORT. What each state update leaves in each field: one lemma per field per update, so that no later proof unfolds a
record update. -/

namespace Sys2Proof.Machine

/-! ### setSp -/

@[simp] theorem State.setSp_params (s : State) (v : CellStore Byte) : (s.setSp v).params = s.params := rfl
@[simp] theorem State.setSp_sp (s : State) (v : CellStore Byte) : (s.setSp v).sp = v := rfl
@[simp] theorem State.setSp_acc (s : State) (v : CellStore Byte) : (s.setSp v).acc = s.acc := rfl
@[simp] theorem State.setSp_mem (s : State) (v : CellStore Byte) : (s.setSp v).mem = s.mem := rfl
@[simp] theorem State.setSp_cfgLd (s : State) (v : CellStore Byte) : (s.setSp v).cfgLd = s.cfgLd := rfl
@[simp] theorem State.setSp_cfgEx (s : State) (v : CellStore Byte) : (s.setSp v).cfgEx = s.cfgEx := rfl
@[simp] theorem State.setSp_cfgSt (s : State) (v : CellStore Byte) : (s.setSp v).cfgSt = s.cfgSt := rfl
@[simp] theorem State.setSp_cfgQ (s : State) (v : CellStore Byte) : (s.setSp v).cfgQ = s.cfgQ := rfl
@[simp] theorem State.setSp_pendw (s : State) (v : CellStore Byte) : (s.setSp v).pendw = s.pendw := rfl
@[simp] theorem State.setSp_pendwValid (s : State) (v : CellStore Byte) : (s.setSp v).pendwValid = s.pendwValid := rfl
@[simp] theorem State.setSp_dest (s : State) (v : CellStore Byte) : (s.setSp v).dest = s.dest := rfl
@[simp] theorem State.setSp_destValid (s : State) (v : CellStore Byte) : (s.setSp v).destValid = s.destValid := rfl
@[simp] theorem State.setSp_wreg (s : State) (v : CellStore Byte) : (s.setSp v).wreg = s.wreg := rfl
@[simp] theorem State.setSp_wregValid (s : State) (v : CellStore Byte) : (s.setSp v).wregValid = s.wregValid := rfl
@[simp] theorem State.setSp_halted (s : State) (v : CellStore Byte) : (s.setSp v).halted = s.halted := rfl
@[simp] theorem State.setSp_cause (s : State) (v : CellStore Byte) : (s.setSp v).cause = s.cause := rfl
@[simp] theorem State.setSp_fcmd (s : State) (v : CellStore Byte) : (s.setSp v).fcmd = s.fcmd := rfl
@[simp] theorem State.setSp_farg1 (s : State) (v : CellStore Byte) : (s.setSp v).farg1 = s.farg1 := rfl
@[simp] theorem State.setSp_farg2 (s : State) (v : CellStore Byte) : (s.setSp v).farg2 = s.farg2 := rfl
@[simp] theorem State.setSp_queue (s : State) (v : CellStore Byte) : (s.setSp v).queue = s.queue := rfl
@[simp] theorem State.setSp_hostWait (s : State) (v : CellStore Byte) : (s.setSp v).hostWait = s.hostWait := rfl
@[simp] theorem State.setSp_outstanding (s : State) (v : CellStore Byte) : (s.setSp v).outstanding = s.outstanding := rfl
@[simp] theorem State.setSp_unfenced (s : State) (v : CellStore Byte) : (s.setSp v).unfenced = s.unfenced := rfl
@[simp] theorem State.setSp_events (s : State) (v : CellStore Byte) : (s.setSp v).events = s.events := rfl
@[simp] theorem State.setSp_replies (s : State) (v : CellStore Byte) : (s.setSp v).replies = s.replies := rfl

/-! ### setAcc -/

@[simp] theorem State.setAcc_params (s : State) (v : CellStore Int) : (s.setAcc v).params = s.params := rfl
@[simp] theorem State.setAcc_sp (s : State) (v : CellStore Int) : (s.setAcc v).sp = s.sp := rfl
@[simp] theorem State.setAcc_acc (s : State) (v : CellStore Int) : (s.setAcc v).acc = v := rfl
@[simp] theorem State.setAcc_mem (s : State) (v : CellStore Int) : (s.setAcc v).mem = s.mem := rfl
@[simp] theorem State.setAcc_cfgLd (s : State) (v : CellStore Int) : (s.setAcc v).cfgLd = s.cfgLd := rfl
@[simp] theorem State.setAcc_cfgEx (s : State) (v : CellStore Int) : (s.setAcc v).cfgEx = s.cfgEx := rfl
@[simp] theorem State.setAcc_cfgSt (s : State) (v : CellStore Int) : (s.setAcc v).cfgSt = s.cfgSt := rfl
@[simp] theorem State.setAcc_cfgQ (s : State) (v : CellStore Int) : (s.setAcc v).cfgQ = s.cfgQ := rfl
@[simp] theorem State.setAcc_pendw (s : State) (v : CellStore Int) : (s.setAcc v).pendw = s.pendw := rfl
@[simp] theorem State.setAcc_pendwValid (s : State) (v : CellStore Int) : (s.setAcc v).pendwValid = s.pendwValid := rfl
@[simp] theorem State.setAcc_dest (s : State) (v : CellStore Int) : (s.setAcc v).dest = s.dest := rfl
@[simp] theorem State.setAcc_destValid (s : State) (v : CellStore Int) : (s.setAcc v).destValid = s.destValid := rfl
@[simp] theorem State.setAcc_wreg (s : State) (v : CellStore Int) : (s.setAcc v).wreg = s.wreg := rfl
@[simp] theorem State.setAcc_wregValid (s : State) (v : CellStore Int) : (s.setAcc v).wregValid = s.wregValid := rfl
@[simp] theorem State.setAcc_halted (s : State) (v : CellStore Int) : (s.setAcc v).halted = s.halted := rfl
@[simp] theorem State.setAcc_cause (s : State) (v : CellStore Int) : (s.setAcc v).cause = s.cause := rfl
@[simp] theorem State.setAcc_fcmd (s : State) (v : CellStore Int) : (s.setAcc v).fcmd = s.fcmd := rfl
@[simp] theorem State.setAcc_farg1 (s : State) (v : CellStore Int) : (s.setAcc v).farg1 = s.farg1 := rfl
@[simp] theorem State.setAcc_farg2 (s : State) (v : CellStore Int) : (s.setAcc v).farg2 = s.farg2 := rfl
@[simp] theorem State.setAcc_queue (s : State) (v : CellStore Int) : (s.setAcc v).queue = s.queue := rfl
@[simp] theorem State.setAcc_hostWait (s : State) (v : CellStore Int) : (s.setAcc v).hostWait = s.hostWait := rfl
@[simp] theorem State.setAcc_outstanding (s : State) (v : CellStore Int) : (s.setAcc v).outstanding = s.outstanding := rfl
@[simp] theorem State.setAcc_unfenced (s : State) (v : CellStore Int) : (s.setAcc v).unfenced = s.unfenced := rfl
@[simp] theorem State.setAcc_events (s : State) (v : CellStore Int) : (s.setAcc v).events = s.events := rfl
@[simp] theorem State.setAcc_replies (s : State) (v : CellStore Int) : (s.setAcc v).replies = s.replies := rfl

/-! ### setMem -/

@[simp] theorem State.setMem_params (s : State) (v : Memory) : (s.setMem v).params = s.params := rfl
@[simp] theorem State.setMem_sp (s : State) (v : Memory) : (s.setMem v).sp = s.sp := rfl
@[simp] theorem State.setMem_acc (s : State) (v : Memory) : (s.setMem v).acc = s.acc := rfl
@[simp] theorem State.setMem_mem (s : State) (v : Memory) : (s.setMem v).mem = v := rfl
@[simp] theorem State.setMem_cfgLd (s : State) (v : Memory) : (s.setMem v).cfgLd = s.cfgLd := rfl
@[simp] theorem State.setMem_cfgEx (s : State) (v : Memory) : (s.setMem v).cfgEx = s.cfgEx := rfl
@[simp] theorem State.setMem_cfgSt (s : State) (v : Memory) : (s.setMem v).cfgSt = s.cfgSt := rfl
@[simp] theorem State.setMem_cfgQ (s : State) (v : Memory) : (s.setMem v).cfgQ = s.cfgQ := rfl
@[simp] theorem State.setMem_pendw (s : State) (v : Memory) : (s.setMem v).pendw = s.pendw := rfl
@[simp] theorem State.setMem_pendwValid (s : State) (v : Memory) : (s.setMem v).pendwValid = s.pendwValid := rfl
@[simp] theorem State.setMem_dest (s : State) (v : Memory) : (s.setMem v).dest = s.dest := rfl
@[simp] theorem State.setMem_destValid (s : State) (v : Memory) : (s.setMem v).destValid = s.destValid := rfl
@[simp] theorem State.setMem_wreg (s : State) (v : Memory) : (s.setMem v).wreg = s.wreg := rfl
@[simp] theorem State.setMem_wregValid (s : State) (v : Memory) : (s.setMem v).wregValid = s.wregValid := rfl
@[simp] theorem State.setMem_halted (s : State) (v : Memory) : (s.setMem v).halted = s.halted := rfl
@[simp] theorem State.setMem_cause (s : State) (v : Memory) : (s.setMem v).cause = s.cause := rfl
@[simp] theorem State.setMem_fcmd (s : State) (v : Memory) : (s.setMem v).fcmd = s.fcmd := rfl
@[simp] theorem State.setMem_farg1 (s : State) (v : Memory) : (s.setMem v).farg1 = s.farg1 := rfl
@[simp] theorem State.setMem_farg2 (s : State) (v : Memory) : (s.setMem v).farg2 = s.farg2 := rfl
@[simp] theorem State.setMem_queue (s : State) (v : Memory) : (s.setMem v).queue = s.queue := rfl
@[simp] theorem State.setMem_hostWait (s : State) (v : Memory) : (s.setMem v).hostWait = s.hostWait := rfl
@[simp] theorem State.setMem_outstanding (s : State) (v : Memory) : (s.setMem v).outstanding = s.outstanding := rfl
@[simp] theorem State.setMem_unfenced (s : State) (v : Memory) : (s.setMem v).unfenced = s.unfenced := rfl
@[simp] theorem State.setMem_events (s : State) (v : Memory) : (s.setMem v).events = s.events := rfl
@[simp] theorem State.setMem_replies (s : State) (v : Memory) : (s.setMem v).replies = s.replies := rfl

/-! ### setCfgLd -/

@[simp] theorem State.setCfgLd_params (s : State) (v : PrecisionReg) : (s.setCfgLd v).params = s.params := rfl
@[simp] theorem State.setCfgLd_sp (s : State) (v : PrecisionReg) : (s.setCfgLd v).sp = s.sp := rfl
@[simp] theorem State.setCfgLd_acc (s : State) (v : PrecisionReg) : (s.setCfgLd v).acc = s.acc := rfl
@[simp] theorem State.setCfgLd_mem (s : State) (v : PrecisionReg) : (s.setCfgLd v).mem = s.mem := rfl
@[simp] theorem State.setCfgLd_cfgLd (s : State) (v : PrecisionReg) : (s.setCfgLd v).cfgLd = v := rfl
@[simp] theorem State.setCfgLd_cfgEx (s : State) (v : PrecisionReg) : (s.setCfgLd v).cfgEx = s.cfgEx := rfl
@[simp] theorem State.setCfgLd_cfgSt (s : State) (v : PrecisionReg) : (s.setCfgLd v).cfgSt = s.cfgSt := rfl
@[simp] theorem State.setCfgLd_cfgQ (s : State) (v : PrecisionReg) : (s.setCfgLd v).cfgQ = s.cfgQ := rfl
@[simp] theorem State.setCfgLd_pendw (s : State) (v : PrecisionReg) : (s.setCfgLd v).pendw = s.pendw := rfl
@[simp] theorem State.setCfgLd_pendwValid (s : State) (v : PrecisionReg) : (s.setCfgLd v).pendwValid = s.pendwValid := rfl
@[simp] theorem State.setCfgLd_dest (s : State) (v : PrecisionReg) : (s.setCfgLd v).dest = s.dest := rfl
@[simp] theorem State.setCfgLd_destValid (s : State) (v : PrecisionReg) : (s.setCfgLd v).destValid = s.destValid := rfl
@[simp] theorem State.setCfgLd_wreg (s : State) (v : PrecisionReg) : (s.setCfgLd v).wreg = s.wreg := rfl
@[simp] theorem State.setCfgLd_wregValid (s : State) (v : PrecisionReg) : (s.setCfgLd v).wregValid = s.wregValid := rfl
@[simp] theorem State.setCfgLd_halted (s : State) (v : PrecisionReg) : (s.setCfgLd v).halted = s.halted := rfl
@[simp] theorem State.setCfgLd_cause (s : State) (v : PrecisionReg) : (s.setCfgLd v).cause = s.cause := rfl
@[simp] theorem State.setCfgLd_fcmd (s : State) (v : PrecisionReg) : (s.setCfgLd v).fcmd = s.fcmd := rfl
@[simp] theorem State.setCfgLd_farg1 (s : State) (v : PrecisionReg) : (s.setCfgLd v).farg1 = s.farg1 := rfl
@[simp] theorem State.setCfgLd_farg2 (s : State) (v : PrecisionReg) : (s.setCfgLd v).farg2 = s.farg2 := rfl
@[simp] theorem State.setCfgLd_queue (s : State) (v : PrecisionReg) : (s.setCfgLd v).queue = s.queue := rfl
@[simp] theorem State.setCfgLd_hostWait (s : State) (v : PrecisionReg) : (s.setCfgLd v).hostWait = s.hostWait := rfl
@[simp] theorem State.setCfgLd_outstanding (s : State) (v : PrecisionReg) : (s.setCfgLd v).outstanding = s.outstanding := rfl
@[simp] theorem State.setCfgLd_unfenced (s : State) (v : PrecisionReg) : (s.setCfgLd v).unfenced = s.unfenced := rfl
@[simp] theorem State.setCfgLd_events (s : State) (v : PrecisionReg) : (s.setCfgLd v).events = s.events := rfl
@[simp] theorem State.setCfgLd_replies (s : State) (v : PrecisionReg) : (s.setCfgLd v).replies = s.replies := rfl

/-! ### setCfgEx -/

@[simp] theorem State.setCfgEx_params (s : State) (v : PrecisionReg) : (s.setCfgEx v).params = s.params := rfl
@[simp] theorem State.setCfgEx_sp (s : State) (v : PrecisionReg) : (s.setCfgEx v).sp = s.sp := rfl
@[simp] theorem State.setCfgEx_acc (s : State) (v : PrecisionReg) : (s.setCfgEx v).acc = s.acc := rfl
@[simp] theorem State.setCfgEx_mem (s : State) (v : PrecisionReg) : (s.setCfgEx v).mem = s.mem := rfl
@[simp] theorem State.setCfgEx_cfgLd (s : State) (v : PrecisionReg) : (s.setCfgEx v).cfgLd = s.cfgLd := rfl
@[simp] theorem State.setCfgEx_cfgEx (s : State) (v : PrecisionReg) : (s.setCfgEx v).cfgEx = v := rfl
@[simp] theorem State.setCfgEx_cfgSt (s : State) (v : PrecisionReg) : (s.setCfgEx v).cfgSt = s.cfgSt := rfl
@[simp] theorem State.setCfgEx_cfgQ (s : State) (v : PrecisionReg) : (s.setCfgEx v).cfgQ = s.cfgQ := rfl
@[simp] theorem State.setCfgEx_pendw (s : State) (v : PrecisionReg) : (s.setCfgEx v).pendw = s.pendw := rfl
@[simp] theorem State.setCfgEx_pendwValid (s : State) (v : PrecisionReg) : (s.setCfgEx v).pendwValid = s.pendwValid := rfl
@[simp] theorem State.setCfgEx_dest (s : State) (v : PrecisionReg) : (s.setCfgEx v).dest = s.dest := rfl
@[simp] theorem State.setCfgEx_destValid (s : State) (v : PrecisionReg) : (s.setCfgEx v).destValid = s.destValid := rfl
@[simp] theorem State.setCfgEx_wreg (s : State) (v : PrecisionReg) : (s.setCfgEx v).wreg = s.wreg := rfl
@[simp] theorem State.setCfgEx_wregValid (s : State) (v : PrecisionReg) : (s.setCfgEx v).wregValid = s.wregValid := rfl
@[simp] theorem State.setCfgEx_halted (s : State) (v : PrecisionReg) : (s.setCfgEx v).halted = s.halted := rfl
@[simp] theorem State.setCfgEx_cause (s : State) (v : PrecisionReg) : (s.setCfgEx v).cause = s.cause := rfl
@[simp] theorem State.setCfgEx_fcmd (s : State) (v : PrecisionReg) : (s.setCfgEx v).fcmd = s.fcmd := rfl
@[simp] theorem State.setCfgEx_farg1 (s : State) (v : PrecisionReg) : (s.setCfgEx v).farg1 = s.farg1 := rfl
@[simp] theorem State.setCfgEx_farg2 (s : State) (v : PrecisionReg) : (s.setCfgEx v).farg2 = s.farg2 := rfl
@[simp] theorem State.setCfgEx_queue (s : State) (v : PrecisionReg) : (s.setCfgEx v).queue = s.queue := rfl
@[simp] theorem State.setCfgEx_hostWait (s : State) (v : PrecisionReg) : (s.setCfgEx v).hostWait = s.hostWait := rfl
@[simp] theorem State.setCfgEx_outstanding (s : State) (v : PrecisionReg) : (s.setCfgEx v).outstanding = s.outstanding := rfl
@[simp] theorem State.setCfgEx_unfenced (s : State) (v : PrecisionReg) : (s.setCfgEx v).unfenced = s.unfenced := rfl
@[simp] theorem State.setCfgEx_events (s : State) (v : PrecisionReg) : (s.setCfgEx v).events = s.events := rfl
@[simp] theorem State.setCfgEx_replies (s : State) (v : PrecisionReg) : (s.setCfgEx v).replies = s.replies := rfl

/-! ### setCfgSt -/

@[simp] theorem State.setCfgSt_params (s : State) (v : PrecisionReg) : (s.setCfgSt v).params = s.params := rfl
@[simp] theorem State.setCfgSt_sp (s : State) (v : PrecisionReg) : (s.setCfgSt v).sp = s.sp := rfl
@[simp] theorem State.setCfgSt_acc (s : State) (v : PrecisionReg) : (s.setCfgSt v).acc = s.acc := rfl
@[simp] theorem State.setCfgSt_mem (s : State) (v : PrecisionReg) : (s.setCfgSt v).mem = s.mem := rfl
@[simp] theorem State.setCfgSt_cfgLd (s : State) (v : PrecisionReg) : (s.setCfgSt v).cfgLd = s.cfgLd := rfl
@[simp] theorem State.setCfgSt_cfgEx (s : State) (v : PrecisionReg) : (s.setCfgSt v).cfgEx = s.cfgEx := rfl
@[simp] theorem State.setCfgSt_cfgSt (s : State) (v : PrecisionReg) : (s.setCfgSt v).cfgSt = v := rfl
@[simp] theorem State.setCfgSt_cfgQ (s : State) (v : PrecisionReg) : (s.setCfgSt v).cfgQ = s.cfgQ := rfl
@[simp] theorem State.setCfgSt_pendw (s : State) (v : PrecisionReg) : (s.setCfgSt v).pendw = s.pendw := rfl
@[simp] theorem State.setCfgSt_pendwValid (s : State) (v : PrecisionReg) : (s.setCfgSt v).pendwValid = s.pendwValid := rfl
@[simp] theorem State.setCfgSt_dest (s : State) (v : PrecisionReg) : (s.setCfgSt v).dest = s.dest := rfl
@[simp] theorem State.setCfgSt_destValid (s : State) (v : PrecisionReg) : (s.setCfgSt v).destValid = s.destValid := rfl
@[simp] theorem State.setCfgSt_wreg (s : State) (v : PrecisionReg) : (s.setCfgSt v).wreg = s.wreg := rfl
@[simp] theorem State.setCfgSt_wregValid (s : State) (v : PrecisionReg) : (s.setCfgSt v).wregValid = s.wregValid := rfl
@[simp] theorem State.setCfgSt_halted (s : State) (v : PrecisionReg) : (s.setCfgSt v).halted = s.halted := rfl
@[simp] theorem State.setCfgSt_cause (s : State) (v : PrecisionReg) : (s.setCfgSt v).cause = s.cause := rfl
@[simp] theorem State.setCfgSt_fcmd (s : State) (v : PrecisionReg) : (s.setCfgSt v).fcmd = s.fcmd := rfl
@[simp] theorem State.setCfgSt_farg1 (s : State) (v : PrecisionReg) : (s.setCfgSt v).farg1 = s.farg1 := rfl
@[simp] theorem State.setCfgSt_farg2 (s : State) (v : PrecisionReg) : (s.setCfgSt v).farg2 = s.farg2 := rfl
@[simp] theorem State.setCfgSt_queue (s : State) (v : PrecisionReg) : (s.setCfgSt v).queue = s.queue := rfl
@[simp] theorem State.setCfgSt_hostWait (s : State) (v : PrecisionReg) : (s.setCfgSt v).hostWait = s.hostWait := rfl
@[simp] theorem State.setCfgSt_outstanding (s : State) (v : PrecisionReg) : (s.setCfgSt v).outstanding = s.outstanding := rfl
@[simp] theorem State.setCfgSt_unfenced (s : State) (v : PrecisionReg) : (s.setCfgSt v).unfenced = s.unfenced := rfl
@[simp] theorem State.setCfgSt_events (s : State) (v : PrecisionReg) : (s.setCfgSt v).events = s.events := rfl
@[simp] theorem State.setCfgSt_replies (s : State) (v : PrecisionReg) : (s.setCfgSt v).replies = s.replies := rfl

/-! ### setCfgQ -/

@[simp] theorem State.setCfgQ_params (s : State) (v : QuantReg) : (s.setCfgQ v).params = s.params := rfl
@[simp] theorem State.setCfgQ_sp (s : State) (v : QuantReg) : (s.setCfgQ v).sp = s.sp := rfl
@[simp] theorem State.setCfgQ_acc (s : State) (v : QuantReg) : (s.setCfgQ v).acc = s.acc := rfl
@[simp] theorem State.setCfgQ_mem (s : State) (v : QuantReg) : (s.setCfgQ v).mem = s.mem := rfl
@[simp] theorem State.setCfgQ_cfgLd (s : State) (v : QuantReg) : (s.setCfgQ v).cfgLd = s.cfgLd := rfl
@[simp] theorem State.setCfgQ_cfgEx (s : State) (v : QuantReg) : (s.setCfgQ v).cfgEx = s.cfgEx := rfl
@[simp] theorem State.setCfgQ_cfgSt (s : State) (v : QuantReg) : (s.setCfgQ v).cfgSt = s.cfgSt := rfl
@[simp] theorem State.setCfgQ_cfgQ (s : State) (v : QuantReg) : (s.setCfgQ v).cfgQ = v := rfl
@[simp] theorem State.setCfgQ_pendw (s : State) (v : QuantReg) : (s.setCfgQ v).pendw = s.pendw := rfl
@[simp] theorem State.setCfgQ_pendwValid (s : State) (v : QuantReg) : (s.setCfgQ v).pendwValid = s.pendwValid := rfl
@[simp] theorem State.setCfgQ_dest (s : State) (v : QuantReg) : (s.setCfgQ v).dest = s.dest := rfl
@[simp] theorem State.setCfgQ_destValid (s : State) (v : QuantReg) : (s.setCfgQ v).destValid = s.destValid := rfl
@[simp] theorem State.setCfgQ_wreg (s : State) (v : QuantReg) : (s.setCfgQ v).wreg = s.wreg := rfl
@[simp] theorem State.setCfgQ_wregValid (s : State) (v : QuantReg) : (s.setCfgQ v).wregValid = s.wregValid := rfl
@[simp] theorem State.setCfgQ_halted (s : State) (v : QuantReg) : (s.setCfgQ v).halted = s.halted := rfl
@[simp] theorem State.setCfgQ_cause (s : State) (v : QuantReg) : (s.setCfgQ v).cause = s.cause := rfl
@[simp] theorem State.setCfgQ_fcmd (s : State) (v : QuantReg) : (s.setCfgQ v).fcmd = s.fcmd := rfl
@[simp] theorem State.setCfgQ_farg1 (s : State) (v : QuantReg) : (s.setCfgQ v).farg1 = s.farg1 := rfl
@[simp] theorem State.setCfgQ_farg2 (s : State) (v : QuantReg) : (s.setCfgQ v).farg2 = s.farg2 := rfl
@[simp] theorem State.setCfgQ_queue (s : State) (v : QuantReg) : (s.setCfgQ v).queue = s.queue := rfl
@[simp] theorem State.setCfgQ_hostWait (s : State) (v : QuantReg) : (s.setCfgQ v).hostWait = s.hostWait := rfl
@[simp] theorem State.setCfgQ_outstanding (s : State) (v : QuantReg) : (s.setCfgQ v).outstanding = s.outstanding := rfl
@[simp] theorem State.setCfgQ_unfenced (s : State) (v : QuantReg) : (s.setCfgQ v).unfenced = s.unfenced := rfl
@[simp] theorem State.setCfgQ_events (s : State) (v : QuantReg) : (s.setCfgQ v).events = s.events := rfl
@[simp] theorem State.setCfgQ_replies (s : State) (v : QuantReg) : (s.setCfgQ v).replies = s.replies := rfl

/-! ### setPending -/

@[simp] theorem State.setPending_params (s : State) (t : Tile) : (s.setPending t).params = s.params := rfl
@[simp] theorem State.setPending_sp (s : State) (t : Tile) : (s.setPending t).sp = s.sp := rfl
@[simp] theorem State.setPending_acc (s : State) (t : Tile) : (s.setPending t).acc = s.acc := rfl
@[simp] theorem State.setPending_mem (s : State) (t : Tile) : (s.setPending t).mem = s.mem := rfl
@[simp] theorem State.setPending_cfgLd (s : State) (t : Tile) : (s.setPending t).cfgLd = s.cfgLd := rfl
@[simp] theorem State.setPending_cfgEx (s : State) (t : Tile) : (s.setPending t).cfgEx = s.cfgEx := rfl
@[simp] theorem State.setPending_cfgSt (s : State) (t : Tile) : (s.setPending t).cfgSt = s.cfgSt := rfl
@[simp] theorem State.setPending_cfgQ (s : State) (t : Tile) : (s.setPending t).cfgQ = s.cfgQ := rfl
@[simp] theorem State.setPending_pendw (s : State) (t : Tile) : (s.setPending t).pendw = t := rfl
@[simp] theorem State.setPending_pendwValid (s : State) (t : Tile) : (s.setPending t).pendwValid = true := rfl
@[simp] theorem State.setPending_dest (s : State) (t : Tile) : (s.setPending t).dest = s.dest := rfl
@[simp] theorem State.setPending_destValid (s : State) (t : Tile) : (s.setPending t).destValid = s.destValid := rfl
@[simp] theorem State.setPending_wreg (s : State) (t : Tile) : (s.setPending t).wreg = s.wreg := rfl
@[simp] theorem State.setPending_wregValid (s : State) (t : Tile) : (s.setPending t).wregValid = s.wregValid := rfl
@[simp] theorem State.setPending_halted (s : State) (t : Tile) : (s.setPending t).halted = s.halted := rfl
@[simp] theorem State.setPending_cause (s : State) (t : Tile) : (s.setPending t).cause = s.cause := rfl
@[simp] theorem State.setPending_fcmd (s : State) (t : Tile) : (s.setPending t).fcmd = s.fcmd := rfl
@[simp] theorem State.setPending_farg1 (s : State) (t : Tile) : (s.setPending t).farg1 = s.farg1 := rfl
@[simp] theorem State.setPending_farg2 (s : State) (t : Tile) : (s.setPending t).farg2 = s.farg2 := rfl
@[simp] theorem State.setPending_queue (s : State) (t : Tile) : (s.setPending t).queue = s.queue := rfl
@[simp] theorem State.setPending_hostWait (s : State) (t : Tile) : (s.setPending t).hostWait = s.hostWait := rfl
@[simp] theorem State.setPending_outstanding (s : State) (t : Tile) : (s.setPending t).outstanding = s.outstanding := rfl
@[simp] theorem State.setPending_unfenced (s : State) (t : Tile) : (s.setPending t).unfenced = s.unfenced := rfl
@[simp] theorem State.setPending_events (s : State) (t : Tile) : (s.setPending t).events = s.events := rfl
@[simp] theorem State.setPending_replies (s : State) (t : Tile) : (s.setPending t).replies = s.replies := rfl

/-! ### clearPending -/

@[simp] theorem State.clearPending_params (s : State) : s.clearPending.params = s.params := rfl
@[simp] theorem State.clearPending_sp (s : State) : s.clearPending.sp = s.sp := rfl
@[simp] theorem State.clearPending_acc (s : State) : s.clearPending.acc = s.acc := rfl
@[simp] theorem State.clearPending_mem (s : State) : s.clearPending.mem = s.mem := rfl
@[simp] theorem State.clearPending_cfgLd (s : State) : s.clearPending.cfgLd = s.cfgLd := rfl
@[simp] theorem State.clearPending_cfgEx (s : State) : s.clearPending.cfgEx = s.cfgEx := rfl
@[simp] theorem State.clearPending_cfgSt (s : State) : s.clearPending.cfgSt = s.cfgSt := rfl
@[simp] theorem State.clearPending_cfgQ (s : State) : s.clearPending.cfgQ = s.cfgQ := rfl
@[simp] theorem State.clearPending_pendw (s : State) : s.clearPending.pendw = s.pendw := rfl
@[simp] theorem State.clearPending_pendwValid (s : State) : s.clearPending.pendwValid = false := rfl
@[simp] theorem State.clearPending_dest (s : State) : s.clearPending.dest = s.dest := rfl
@[simp] theorem State.clearPending_destValid (s : State) : s.clearPending.destValid = s.destValid := rfl
@[simp] theorem State.clearPending_wreg (s : State) : s.clearPending.wreg = s.wreg := rfl
@[simp] theorem State.clearPending_wregValid (s : State) : s.clearPending.wregValid = s.wregValid := rfl
@[simp] theorem State.clearPending_halted (s : State) : s.clearPending.halted = s.halted := rfl
@[simp] theorem State.clearPending_cause (s : State) : s.clearPending.cause = s.cause := rfl
@[simp] theorem State.clearPending_fcmd (s : State) : s.clearPending.fcmd = s.fcmd := rfl
@[simp] theorem State.clearPending_farg1 (s : State) : s.clearPending.farg1 = s.farg1 := rfl
@[simp] theorem State.clearPending_farg2 (s : State) : s.clearPending.farg2 = s.farg2 := rfl
@[simp] theorem State.clearPending_queue (s : State) : s.clearPending.queue = s.queue := rfl
@[simp] theorem State.clearPending_hostWait (s : State) : s.clearPending.hostWait = s.hostWait := rfl
@[simp] theorem State.clearPending_outstanding (s : State) : s.clearPending.outstanding = s.outstanding := rfl
@[simp] theorem State.clearPending_unfenced (s : State) : s.clearPending.unfenced = s.unfenced := rfl
@[simp] theorem State.clearPending_events (s : State) : s.clearPending.events = s.events := rfl
@[simp] theorem State.clearPending_replies (s : State) : s.clearPending.replies = s.replies := rfl

/-! ### setDest -/

@[simp] theorem State.setDest_params (s : State) (la : LocalWord) : (s.setDest la).params = s.params := rfl
@[simp] theorem State.setDest_sp (s : State) (la : LocalWord) : (s.setDest la).sp = s.sp := rfl
@[simp] theorem State.setDest_acc (s : State) (la : LocalWord) : (s.setDest la).acc = s.acc := rfl
@[simp] theorem State.setDest_mem (s : State) (la : LocalWord) : (s.setDest la).mem = s.mem := rfl
@[simp] theorem State.setDest_cfgLd (s : State) (la : LocalWord) : (s.setDest la).cfgLd = s.cfgLd := rfl
@[simp] theorem State.setDest_cfgEx (s : State) (la : LocalWord) : (s.setDest la).cfgEx = s.cfgEx := rfl
@[simp] theorem State.setDest_cfgSt (s : State) (la : LocalWord) : (s.setDest la).cfgSt = s.cfgSt := rfl
@[simp] theorem State.setDest_cfgQ (s : State) (la : LocalWord) : (s.setDest la).cfgQ = s.cfgQ := rfl
@[simp] theorem State.setDest_pendw (s : State) (la : LocalWord) : (s.setDest la).pendw = s.pendw := rfl
@[simp] theorem State.setDest_pendwValid (s : State) (la : LocalWord) : (s.setDest la).pendwValid = s.pendwValid := rfl
@[simp] theorem State.setDest_dest (s : State) (la : LocalWord) : (s.setDest la).dest = la := rfl
@[simp] theorem State.setDest_destValid (s : State) (la : LocalWord) : (s.setDest la).destValid = true := rfl
@[simp] theorem State.setDest_wreg (s : State) (la : LocalWord) : (s.setDest la).wreg = s.wreg := rfl
@[simp] theorem State.setDest_wregValid (s : State) (la : LocalWord) : (s.setDest la).wregValid = s.wregValid := rfl
@[simp] theorem State.setDest_halted (s : State) (la : LocalWord) : (s.setDest la).halted = s.halted := rfl
@[simp] theorem State.setDest_cause (s : State) (la : LocalWord) : (s.setDest la).cause = s.cause := rfl
@[simp] theorem State.setDest_fcmd (s : State) (la : LocalWord) : (s.setDest la).fcmd = s.fcmd := rfl
@[simp] theorem State.setDest_farg1 (s : State) (la : LocalWord) : (s.setDest la).farg1 = s.farg1 := rfl
@[simp] theorem State.setDest_farg2 (s : State) (la : LocalWord) : (s.setDest la).farg2 = s.farg2 := rfl
@[simp] theorem State.setDest_queue (s : State) (la : LocalWord) : (s.setDest la).queue = s.queue := rfl
@[simp] theorem State.setDest_hostWait (s : State) (la : LocalWord) : (s.setDest la).hostWait = s.hostWait := rfl
@[simp] theorem State.setDest_outstanding (s : State) (la : LocalWord) : (s.setDest la).outstanding = s.outstanding := rfl
@[simp] theorem State.setDest_unfenced (s : State) (la : LocalWord) : (s.setDest la).unfenced = s.unfenced := rfl
@[simp] theorem State.setDest_events (s : State) (la : LocalWord) : (s.setDest la).events = s.events := rfl
@[simp] theorem State.setDest_replies (s : State) (la : LocalWord) : (s.setDest la).replies = s.replies := rfl

/-! ### consumeDest -/

@[simp] theorem State.consumeDest_params (s : State) : s.consumeDest.params = s.params := rfl
@[simp] theorem State.consumeDest_sp (s : State) : s.consumeDest.sp = s.sp := rfl
@[simp] theorem State.consumeDest_acc (s : State) : s.consumeDest.acc = s.acc := rfl
@[simp] theorem State.consumeDest_mem (s : State) : s.consumeDest.mem = s.mem := rfl
@[simp] theorem State.consumeDest_cfgLd (s : State) : s.consumeDest.cfgLd = s.cfgLd := rfl
@[simp] theorem State.consumeDest_cfgEx (s : State) : s.consumeDest.cfgEx = s.cfgEx := rfl
@[simp] theorem State.consumeDest_cfgSt (s : State) : s.consumeDest.cfgSt = s.cfgSt := rfl
@[simp] theorem State.consumeDest_cfgQ (s : State) : s.consumeDest.cfgQ = s.cfgQ := rfl
@[simp] theorem State.consumeDest_pendw (s : State) : s.consumeDest.pendw = s.pendw := rfl
@[simp] theorem State.consumeDest_pendwValid (s : State) : s.consumeDest.pendwValid = s.pendwValid := rfl
@[simp] theorem State.consumeDest_dest (s : State) : s.consumeDest.dest = s.dest := rfl
@[simp] theorem State.consumeDest_destValid (s : State) : s.consumeDest.destValid = false := rfl
@[simp] theorem State.consumeDest_wreg (s : State) : s.consumeDest.wreg = s.wreg := rfl
@[simp] theorem State.consumeDest_wregValid (s : State) : s.consumeDest.wregValid = s.wregValid := rfl
@[simp] theorem State.consumeDest_halted (s : State) : s.consumeDest.halted = s.halted := rfl
@[simp] theorem State.consumeDest_cause (s : State) : s.consumeDest.cause = s.cause := rfl
@[simp] theorem State.consumeDest_fcmd (s : State) : s.consumeDest.fcmd = s.fcmd := rfl
@[simp] theorem State.consumeDest_farg1 (s : State) : s.consumeDest.farg1 = s.farg1 := rfl
@[simp] theorem State.consumeDest_farg2 (s : State) : s.consumeDest.farg2 = s.farg2 := rfl
@[simp] theorem State.consumeDest_queue (s : State) : s.consumeDest.queue = s.queue := rfl
@[simp] theorem State.consumeDest_hostWait (s : State) : s.consumeDest.hostWait = s.hostWait := rfl
@[simp] theorem State.consumeDest_outstanding (s : State) : s.consumeDest.outstanding = s.outstanding := rfl
@[simp] theorem State.consumeDest_unfenced (s : State) : s.consumeDest.unfenced = s.unfenced := rfl
@[simp] theorem State.consumeDest_events (s : State) : s.consumeDest.events = s.events := rfl
@[simp] theorem State.consumeDest_replies (s : State) : s.consumeDest.replies = s.replies := rfl

/-! ### makeResident -/

@[simp] theorem State.makeResident_params (s : State) (w : Tile) : (s.makeResident w).params = s.params := rfl
@[simp] theorem State.makeResident_sp (s : State) (w : Tile) : (s.makeResident w).sp = s.sp := rfl
@[simp] theorem State.makeResident_acc (s : State) (w : Tile) : (s.makeResident w).acc = s.acc := rfl
@[simp] theorem State.makeResident_mem (s : State) (w : Tile) : (s.makeResident w).mem = s.mem := rfl
@[simp] theorem State.makeResident_cfgLd (s : State) (w : Tile) : (s.makeResident w).cfgLd = s.cfgLd := rfl
@[simp] theorem State.makeResident_cfgEx (s : State) (w : Tile) : (s.makeResident w).cfgEx = s.cfgEx := rfl
@[simp] theorem State.makeResident_cfgSt (s : State) (w : Tile) : (s.makeResident w).cfgSt = s.cfgSt := rfl
@[simp] theorem State.makeResident_cfgQ (s : State) (w : Tile) : (s.makeResident w).cfgQ = s.cfgQ := rfl
@[simp] theorem State.makeResident_pendw (s : State) (w : Tile) : (s.makeResident w).pendw = s.pendw := rfl
@[simp] theorem State.makeResident_pendwValid (s : State) (w : Tile) : (s.makeResident w).pendwValid = false := rfl
@[simp] theorem State.makeResident_dest (s : State) (w : Tile) : (s.makeResident w).dest = s.dest := rfl
@[simp] theorem State.makeResident_destValid (s : State) (w : Tile) : (s.makeResident w).destValid = false := rfl
@[simp] theorem State.makeResident_wreg (s : State) (w : Tile) : (s.makeResident w).wreg = w := rfl
@[simp] theorem State.makeResident_wregValid (s : State) (w : Tile) : (s.makeResident w).wregValid = true := rfl
@[simp] theorem State.makeResident_halted (s : State) (w : Tile) : (s.makeResident w).halted = s.halted := rfl
@[simp] theorem State.makeResident_cause (s : State) (w : Tile) : (s.makeResident w).cause = s.cause := rfl
@[simp] theorem State.makeResident_fcmd (s : State) (w : Tile) : (s.makeResident w).fcmd = s.fcmd := rfl
@[simp] theorem State.makeResident_farg1 (s : State) (w : Tile) : (s.makeResident w).farg1 = s.farg1 := rfl
@[simp] theorem State.makeResident_farg2 (s : State) (w : Tile) : (s.makeResident w).farg2 = s.farg2 := rfl
@[simp] theorem State.makeResident_queue (s : State) (w : Tile) : (s.makeResident w).queue = s.queue := rfl
@[simp] theorem State.makeResident_hostWait (s : State) (w : Tile) : (s.makeResident w).hostWait = s.hostWait := rfl
@[simp] theorem State.makeResident_outstanding (s : State) (w : Tile) : (s.makeResident w).outstanding = s.outstanding := rfl
@[simp] theorem State.makeResident_unfenced (s : State) (w : Tile) : (s.makeResident w).unfenced = s.unfenced := rfl
@[simp] theorem State.makeResident_events (s : State) (w : Tile) : (s.makeResident w).events = s.events := rfl
@[simp] theorem State.makeResident_replies (s : State) (w : Tile) : (s.makeResident w).replies = s.replies := rfl

/-! ### setQueue -/

@[simp] theorem State.setQueue_params (s : State) (q : List Packet) : (s.setQueue q).params = s.params := rfl
@[simp] theorem State.setQueue_sp (s : State) (q : List Packet) : (s.setQueue q).sp = s.sp := rfl
@[simp] theorem State.setQueue_acc (s : State) (q : List Packet) : (s.setQueue q).acc = s.acc := rfl
@[simp] theorem State.setQueue_mem (s : State) (q : List Packet) : (s.setQueue q).mem = s.mem := rfl
@[simp] theorem State.setQueue_cfgLd (s : State) (q : List Packet) : (s.setQueue q).cfgLd = s.cfgLd := rfl
@[simp] theorem State.setQueue_cfgEx (s : State) (q : List Packet) : (s.setQueue q).cfgEx = s.cfgEx := rfl
@[simp] theorem State.setQueue_cfgSt (s : State) (q : List Packet) : (s.setQueue q).cfgSt = s.cfgSt := rfl
@[simp] theorem State.setQueue_cfgQ (s : State) (q : List Packet) : (s.setQueue q).cfgQ = s.cfgQ := rfl
@[simp] theorem State.setQueue_pendw (s : State) (q : List Packet) : (s.setQueue q).pendw = s.pendw := rfl
@[simp] theorem State.setQueue_pendwValid (s : State) (q : List Packet) : (s.setQueue q).pendwValid = s.pendwValid := rfl
@[simp] theorem State.setQueue_dest (s : State) (q : List Packet) : (s.setQueue q).dest = s.dest := rfl
@[simp] theorem State.setQueue_destValid (s : State) (q : List Packet) : (s.setQueue q).destValid = s.destValid := rfl
@[simp] theorem State.setQueue_wreg (s : State) (q : List Packet) : (s.setQueue q).wreg = s.wreg := rfl
@[simp] theorem State.setQueue_wregValid (s : State) (q : List Packet) : (s.setQueue q).wregValid = s.wregValid := rfl
@[simp] theorem State.setQueue_halted (s : State) (q : List Packet) : (s.setQueue q).halted = s.halted := rfl
@[simp] theorem State.setQueue_cause (s : State) (q : List Packet) : (s.setQueue q).cause = s.cause := rfl
@[simp] theorem State.setQueue_fcmd (s : State) (q : List Packet) : (s.setQueue q).fcmd = s.fcmd := rfl
@[simp] theorem State.setQueue_farg1 (s : State) (q : List Packet) : (s.setQueue q).farg1 = s.farg1 := rfl
@[simp] theorem State.setQueue_farg2 (s : State) (q : List Packet) : (s.setQueue q).farg2 = s.farg2 := rfl
@[simp] theorem State.setQueue_queue (s : State) (q : List Packet) : (s.setQueue q).queue = q := rfl
@[simp] theorem State.setQueue_hostWait (s : State) (q : List Packet) : (s.setQueue q).hostWait = s.hostWait := rfl
@[simp] theorem State.setQueue_outstanding (s : State) (q : List Packet) : (s.setQueue q).outstanding = s.outstanding := rfl
@[simp] theorem State.setQueue_unfenced (s : State) (q : List Packet) : (s.setQueue q).unfenced = s.unfenced := rfl
@[simp] theorem State.setQueue_events (s : State) (q : List Packet) : (s.setQueue q).events = s.events := rfl
@[simp] theorem State.setQueue_replies (s : State) (q : List Packet) : (s.setQueue q).replies = s.replies := rfl

/-! ### setOutstanding -/

@[simp] theorem State.setOutstanding_params (s : State) (o : List Footprint) : (s.setOutstanding o).params = s.params := rfl
@[simp] theorem State.setOutstanding_sp (s : State) (o : List Footprint) : (s.setOutstanding o).sp = s.sp := rfl
@[simp] theorem State.setOutstanding_acc (s : State) (o : List Footprint) : (s.setOutstanding o).acc = s.acc := rfl
@[simp] theorem State.setOutstanding_mem (s : State) (o : List Footprint) : (s.setOutstanding o).mem = s.mem := rfl
@[simp] theorem State.setOutstanding_cfgLd (s : State) (o : List Footprint) : (s.setOutstanding o).cfgLd = s.cfgLd := rfl
@[simp] theorem State.setOutstanding_cfgEx (s : State) (o : List Footprint) : (s.setOutstanding o).cfgEx = s.cfgEx := rfl
@[simp] theorem State.setOutstanding_cfgSt (s : State) (o : List Footprint) : (s.setOutstanding o).cfgSt = s.cfgSt := rfl
@[simp] theorem State.setOutstanding_cfgQ (s : State) (o : List Footprint) : (s.setOutstanding o).cfgQ = s.cfgQ := rfl
@[simp] theorem State.setOutstanding_pendw (s : State) (o : List Footprint) : (s.setOutstanding o).pendw = s.pendw := rfl
@[simp] theorem State.setOutstanding_pendwValid (s : State) (o : List Footprint) : (s.setOutstanding o).pendwValid = s.pendwValid := rfl
@[simp] theorem State.setOutstanding_dest (s : State) (o : List Footprint) : (s.setOutstanding o).dest = s.dest := rfl
@[simp] theorem State.setOutstanding_destValid (s : State) (o : List Footprint) : (s.setOutstanding o).destValid = s.destValid := rfl
@[simp] theorem State.setOutstanding_wreg (s : State) (o : List Footprint) : (s.setOutstanding o).wreg = s.wreg := rfl
@[simp] theorem State.setOutstanding_wregValid (s : State) (o : List Footprint) : (s.setOutstanding o).wregValid = s.wregValid := rfl
@[simp] theorem State.setOutstanding_halted (s : State) (o : List Footprint) : (s.setOutstanding o).halted = s.halted := rfl
@[simp] theorem State.setOutstanding_cause (s : State) (o : List Footprint) : (s.setOutstanding o).cause = s.cause := rfl
@[simp] theorem State.setOutstanding_fcmd (s : State) (o : List Footprint) : (s.setOutstanding o).fcmd = s.fcmd := rfl
@[simp] theorem State.setOutstanding_farg1 (s : State) (o : List Footprint) : (s.setOutstanding o).farg1 = s.farg1 := rfl
@[simp] theorem State.setOutstanding_farg2 (s : State) (o : List Footprint) : (s.setOutstanding o).farg2 = s.farg2 := rfl
@[simp] theorem State.setOutstanding_queue (s : State) (o : List Footprint) : (s.setOutstanding o).queue = s.queue := rfl
@[simp] theorem State.setOutstanding_hostWait (s : State) (o : List Footprint) : (s.setOutstanding o).hostWait = s.hostWait := rfl
@[simp] theorem State.setOutstanding_outstanding (s : State) (o : List Footprint) : (s.setOutstanding o).outstanding = o := rfl
@[simp] theorem State.setOutstanding_unfenced (s : State) (o : List Footprint) : (s.setOutstanding o).unfenced = s.unfenced := rfl
@[simp] theorem State.setOutstanding_events (s : State) (o : List Footprint) : (s.setOutstanding o).events = s.events := rfl
@[simp] theorem State.setOutstanding_replies (s : State) (o : List Footprint) : (s.setOutstanding o).replies = s.replies := rfl

/-! ### startWait -/

@[simp] theorem State.startWait_params (s : State) : s.startWait.params = s.params := rfl
@[simp] theorem State.startWait_sp (s : State) : s.startWait.sp = s.sp := rfl
@[simp] theorem State.startWait_acc (s : State) : s.startWait.acc = s.acc := rfl
@[simp] theorem State.startWait_mem (s : State) : s.startWait.mem = s.mem := rfl
@[simp] theorem State.startWait_cfgLd (s : State) : s.startWait.cfgLd = s.cfgLd := rfl
@[simp] theorem State.startWait_cfgEx (s : State) : s.startWait.cfgEx = s.cfgEx := rfl
@[simp] theorem State.startWait_cfgSt (s : State) : s.startWait.cfgSt = s.cfgSt := rfl
@[simp] theorem State.startWait_cfgQ (s : State) : s.startWait.cfgQ = s.cfgQ := rfl
@[simp] theorem State.startWait_pendw (s : State) : s.startWait.pendw = s.pendw := rfl
@[simp] theorem State.startWait_pendwValid (s : State) : s.startWait.pendwValid = s.pendwValid := rfl
@[simp] theorem State.startWait_dest (s : State) : s.startWait.dest = s.dest := rfl
@[simp] theorem State.startWait_destValid (s : State) : s.startWait.destValid = s.destValid := rfl
@[simp] theorem State.startWait_wreg (s : State) : s.startWait.wreg = s.wreg := rfl
@[simp] theorem State.startWait_wregValid (s : State) : s.startWait.wregValid = s.wregValid := rfl
@[simp] theorem State.startWait_halted (s : State) : s.startWait.halted = s.halted := rfl
@[simp] theorem State.startWait_cause (s : State) : s.startWait.cause = s.cause := rfl
@[simp] theorem State.startWait_fcmd (s : State) : s.startWait.fcmd = s.fcmd := rfl
@[simp] theorem State.startWait_farg1 (s : State) : s.startWait.farg1 = s.farg1 := rfl
@[simp] theorem State.startWait_farg2 (s : State) : s.startWait.farg2 = s.farg2 := rfl
@[simp] theorem State.startWait_queue (s : State) : s.startWait.queue = s.queue := rfl
@[simp] theorem State.startWait_hostWait (s : State) : s.startWait.hostWait = true := rfl
@[simp] theorem State.startWait_outstanding (s : State) : s.startWait.outstanding = s.outstanding := rfl
@[simp] theorem State.startWait_unfenced (s : State) : s.startWait.unfenced = s.unfenced := rfl
@[simp] theorem State.startWait_events (s : State) : s.startWait.events = s.events := rfl
@[simp] theorem State.startWait_replies (s : State) : s.startWait.replies = s.replies := rfl

/-! ### completeFence -/

@[simp] theorem State.completeFence_params (s : State) : s.completeFence.params = s.params := rfl
@[simp] theorem State.completeFence_sp (s : State) : s.completeFence.sp = s.sp := rfl
@[simp] theorem State.completeFence_acc (s : State) : s.completeFence.acc = s.acc := rfl
@[simp] theorem State.completeFence_mem (s : State) : s.completeFence.mem = s.mem := rfl
@[simp] theorem State.completeFence_cfgLd (s : State) : s.completeFence.cfgLd = s.cfgLd := rfl
@[simp] theorem State.completeFence_cfgEx (s : State) : s.completeFence.cfgEx = s.cfgEx := rfl
@[simp] theorem State.completeFence_cfgSt (s : State) : s.completeFence.cfgSt = s.cfgSt := rfl
@[simp] theorem State.completeFence_cfgQ (s : State) : s.completeFence.cfgQ = s.cfgQ := rfl
@[simp] theorem State.completeFence_pendw (s : State) : s.completeFence.pendw = s.pendw := rfl
@[simp] theorem State.completeFence_pendwValid (s : State) : s.completeFence.pendwValid = s.pendwValid := rfl
@[simp] theorem State.completeFence_dest (s : State) : s.completeFence.dest = s.dest := rfl
@[simp] theorem State.completeFence_destValid (s : State) : s.completeFence.destValid = s.destValid := rfl
@[simp] theorem State.completeFence_wreg (s : State) : s.completeFence.wreg = s.wreg := rfl
@[simp] theorem State.completeFence_wregValid (s : State) : s.completeFence.wregValid = s.wregValid := rfl
@[simp] theorem State.completeFence_halted (s : State) : s.completeFence.halted = s.halted := rfl
@[simp] theorem State.completeFence_cause (s : State) : s.completeFence.cause = s.cause := rfl
@[simp] theorem State.completeFence_fcmd (s : State) : s.completeFence.fcmd = s.fcmd := rfl
@[simp] theorem State.completeFence_farg1 (s : State) : s.completeFence.farg1 = s.farg1 := rfl
@[simp] theorem State.completeFence_farg2 (s : State) : s.completeFence.farg2 = s.farg2 := rfl
@[simp] theorem State.completeFence_queue (s : State) : s.completeFence.queue = s.queue := rfl
@[simp] theorem State.completeFence_hostWait (s : State) : s.completeFence.hostWait = false := rfl
@[simp] theorem State.completeFence_outstanding (s : State) : s.completeFence.outstanding = [] := rfl
@[simp] theorem State.completeFence_unfenced (s : State) : s.completeFence.unfenced = s.unfenced := rfl
@[simp] theorem State.completeFence_events (s : State) : s.completeFence.events = s.events := rfl
@[simp] theorem State.completeFence_replies (s : State) : s.completeFence.replies = s.replies := rfl

/-! ### noteRace -/

@[simp] theorem State.noteRace_params (s : State) (b : Bool) : (s.noteRace b).params = s.params := rfl
@[simp] theorem State.noteRace_sp (s : State) (b : Bool) : (s.noteRace b).sp = s.sp := rfl
@[simp] theorem State.noteRace_acc (s : State) (b : Bool) : (s.noteRace b).acc = s.acc := rfl
@[simp] theorem State.noteRace_mem (s : State) (b : Bool) : (s.noteRace b).mem = s.mem := rfl
@[simp] theorem State.noteRace_cfgLd (s : State) (b : Bool) : (s.noteRace b).cfgLd = s.cfgLd := rfl
@[simp] theorem State.noteRace_cfgEx (s : State) (b : Bool) : (s.noteRace b).cfgEx = s.cfgEx := rfl
@[simp] theorem State.noteRace_cfgSt (s : State) (b : Bool) : (s.noteRace b).cfgSt = s.cfgSt := rfl
@[simp] theorem State.noteRace_cfgQ (s : State) (b : Bool) : (s.noteRace b).cfgQ = s.cfgQ := rfl
@[simp] theorem State.noteRace_pendw (s : State) (b : Bool) : (s.noteRace b).pendw = s.pendw := rfl
@[simp] theorem State.noteRace_pendwValid (s : State) (b : Bool) : (s.noteRace b).pendwValid = s.pendwValid := rfl
@[simp] theorem State.noteRace_dest (s : State) (b : Bool) : (s.noteRace b).dest = s.dest := rfl
@[simp] theorem State.noteRace_destValid (s : State) (b : Bool) : (s.noteRace b).destValid = s.destValid := rfl
@[simp] theorem State.noteRace_wreg (s : State) (b : Bool) : (s.noteRace b).wreg = s.wreg := rfl
@[simp] theorem State.noteRace_wregValid (s : State) (b : Bool) : (s.noteRace b).wregValid = s.wregValid := rfl
@[simp] theorem State.noteRace_halted (s : State) (b : Bool) : (s.noteRace b).halted = s.halted := rfl
@[simp] theorem State.noteRace_cause (s : State) (b : Bool) : (s.noteRace b).cause = s.cause := rfl
@[simp] theorem State.noteRace_fcmd (s : State) (b : Bool) : (s.noteRace b).fcmd = s.fcmd := rfl
@[simp] theorem State.noteRace_farg1 (s : State) (b : Bool) : (s.noteRace b).farg1 = s.farg1 := rfl
@[simp] theorem State.noteRace_farg2 (s : State) (b : Bool) : (s.noteRace b).farg2 = s.farg2 := rfl
@[simp] theorem State.noteRace_queue (s : State) (b : Bool) : (s.noteRace b).queue = s.queue := rfl
@[simp] theorem State.noteRace_hostWait (s : State) (b : Bool) : (s.noteRace b).hostWait = s.hostWait := rfl
@[simp] theorem State.noteRace_outstanding (s : State) (b : Bool) : (s.noteRace b).outstanding = s.outstanding := rfl
@[simp] theorem State.noteRace_unfenced (s : State) (b : Bool) : (s.noteRace b).unfenced = (s.unfenced || b) := rfl
@[simp] theorem State.noteRace_events (s : State) (b : Bool) : (s.noteRace b).events = s.events := rfl
@[simp] theorem State.noteRace_replies (s : State) (b : Bool) : (s.noteRace b).replies = s.replies := rfl

/-! ### setEvents -/

@[simp] theorem State.setEvents_params (s : State) (es : List Event) : (s.setEvents es).params = s.params := rfl
@[simp] theorem State.setEvents_sp (s : State) (es : List Event) : (s.setEvents es).sp = s.sp := rfl
@[simp] theorem State.setEvents_acc (s : State) (es : List Event) : (s.setEvents es).acc = s.acc := rfl
@[simp] theorem State.setEvents_mem (s : State) (es : List Event) : (s.setEvents es).mem = s.mem := rfl
@[simp] theorem State.setEvents_cfgLd (s : State) (es : List Event) : (s.setEvents es).cfgLd = s.cfgLd := rfl
@[simp] theorem State.setEvents_cfgEx (s : State) (es : List Event) : (s.setEvents es).cfgEx = s.cfgEx := rfl
@[simp] theorem State.setEvents_cfgSt (s : State) (es : List Event) : (s.setEvents es).cfgSt = s.cfgSt := rfl
@[simp] theorem State.setEvents_cfgQ (s : State) (es : List Event) : (s.setEvents es).cfgQ = s.cfgQ := rfl
@[simp] theorem State.setEvents_pendw (s : State) (es : List Event) : (s.setEvents es).pendw = s.pendw := rfl
@[simp] theorem State.setEvents_pendwValid (s : State) (es : List Event) : (s.setEvents es).pendwValid = s.pendwValid := rfl
@[simp] theorem State.setEvents_dest (s : State) (es : List Event) : (s.setEvents es).dest = s.dest := rfl
@[simp] theorem State.setEvents_destValid (s : State) (es : List Event) : (s.setEvents es).destValid = s.destValid := rfl
@[simp] theorem State.setEvents_wreg (s : State) (es : List Event) : (s.setEvents es).wreg = s.wreg := rfl
@[simp] theorem State.setEvents_wregValid (s : State) (es : List Event) : (s.setEvents es).wregValid = s.wregValid := rfl
@[simp] theorem State.setEvents_halted (s : State) (es : List Event) : (s.setEvents es).halted = s.halted := rfl
@[simp] theorem State.setEvents_cause (s : State) (es : List Event) : (s.setEvents es).cause = s.cause := rfl
@[simp] theorem State.setEvents_fcmd (s : State) (es : List Event) : (s.setEvents es).fcmd = s.fcmd := rfl
@[simp] theorem State.setEvents_farg1 (s : State) (es : List Event) : (s.setEvents es).farg1 = s.farg1 := rfl
@[simp] theorem State.setEvents_farg2 (s : State) (es : List Event) : (s.setEvents es).farg2 = s.farg2 := rfl
@[simp] theorem State.setEvents_queue (s : State) (es : List Event) : (s.setEvents es).queue = s.queue := rfl
@[simp] theorem State.setEvents_hostWait (s : State) (es : List Event) : (s.setEvents es).hostWait = s.hostWait := rfl
@[simp] theorem State.setEvents_outstanding (s : State) (es : List Event) : (s.setEvents es).outstanding = s.outstanding := rfl
@[simp] theorem State.setEvents_unfenced (s : State) (es : List Event) : (s.setEvents es).unfenced = s.unfenced := rfl
@[simp] theorem State.setEvents_events (s : State) (es : List Event) : (s.setEvents es).events = es := rfl
@[simp] theorem State.setEvents_replies (s : State) (es : List Event) : (s.setEvents es).replies = s.replies := rfl

/-! ### reply -/

@[simp] theorem State.reply_params (s : State) (v : BitVec 64) : (s.reply v).params = s.params := rfl
@[simp] theorem State.reply_sp (s : State) (v : BitVec 64) : (s.reply v).sp = s.sp := rfl
@[simp] theorem State.reply_acc (s : State) (v : BitVec 64) : (s.reply v).acc = s.acc := rfl
@[simp] theorem State.reply_mem (s : State) (v : BitVec 64) : (s.reply v).mem = s.mem := rfl
@[simp] theorem State.reply_cfgLd (s : State) (v : BitVec 64) : (s.reply v).cfgLd = s.cfgLd := rfl
@[simp] theorem State.reply_cfgEx (s : State) (v : BitVec 64) : (s.reply v).cfgEx = s.cfgEx := rfl
@[simp] theorem State.reply_cfgSt (s : State) (v : BitVec 64) : (s.reply v).cfgSt = s.cfgSt := rfl
@[simp] theorem State.reply_cfgQ (s : State) (v : BitVec 64) : (s.reply v).cfgQ = s.cfgQ := rfl
@[simp] theorem State.reply_pendw (s : State) (v : BitVec 64) : (s.reply v).pendw = s.pendw := rfl
@[simp] theorem State.reply_pendwValid (s : State) (v : BitVec 64) : (s.reply v).pendwValid = s.pendwValid := rfl
@[simp] theorem State.reply_dest (s : State) (v : BitVec 64) : (s.reply v).dest = s.dest := rfl
@[simp] theorem State.reply_destValid (s : State) (v : BitVec 64) : (s.reply v).destValid = s.destValid := rfl
@[simp] theorem State.reply_wreg (s : State) (v : BitVec 64) : (s.reply v).wreg = s.wreg := rfl
@[simp] theorem State.reply_wregValid (s : State) (v : BitVec 64) : (s.reply v).wregValid = s.wregValid := rfl
@[simp] theorem State.reply_halted (s : State) (v : BitVec 64) : (s.reply v).halted = s.halted := rfl
@[simp] theorem State.reply_cause (s : State) (v : BitVec 64) : (s.reply v).cause = s.cause := rfl
@[simp] theorem State.reply_fcmd (s : State) (v : BitVec 64) : (s.reply v).fcmd = s.fcmd := rfl
@[simp] theorem State.reply_farg1 (s : State) (v : BitVec 64) : (s.reply v).farg1 = s.farg1 := rfl
@[simp] theorem State.reply_farg2 (s : State) (v : BitVec 64) : (s.reply v).farg2 = s.farg2 := rfl
@[simp] theorem State.reply_queue (s : State) (v : BitVec 64) : (s.reply v).queue = s.queue := rfl
@[simp] theorem State.reply_hostWait (s : State) (v : BitVec 64) : (s.reply v).hostWait = s.hostWait := rfl
@[simp] theorem State.reply_outstanding (s : State) (v : BitVec 64) : (s.reply v).outstanding = s.outstanding := rfl
@[simp] theorem State.reply_unfenced (s : State) (v : BitVec 64) : (s.reply v).unfenced = s.unfenced := rfl
@[simp] theorem State.reply_events (s : State) (v : BitVec 64) : (s.reply v).events = s.events := rfl
@[simp] theorem State.reply_replies (s : State) (v : BitVec 64) : (s.reply v).replies = v :: s.replies := rfl

/-! ### faultEntry -/

@[simp] theorem State.faultEntry_params (s : State) (c : Cause) (p : Packet) : (s.faultEntry c p).params = s.params := rfl
@[simp] theorem State.faultEntry_sp (s : State) (c : Cause) (p : Packet) : (s.faultEntry c p).sp = s.sp := rfl
@[simp] theorem State.faultEntry_acc (s : State) (c : Cause) (p : Packet) : (s.faultEntry c p).acc = s.acc := rfl
@[simp] theorem State.faultEntry_mem (s : State) (c : Cause) (p : Packet) : (s.faultEntry c p).mem = s.mem := rfl
@[simp] theorem State.faultEntry_cfgLd (s : State) (c : Cause) (p : Packet) : (s.faultEntry c p).cfgLd = s.cfgLd := rfl
@[simp] theorem State.faultEntry_cfgEx (s : State) (c : Cause) (p : Packet) : (s.faultEntry c p).cfgEx = s.cfgEx := rfl
@[simp] theorem State.faultEntry_cfgSt (s : State) (c : Cause) (p : Packet) : (s.faultEntry c p).cfgSt = s.cfgSt := rfl
@[simp] theorem State.faultEntry_cfgQ (s : State) (c : Cause) (p : Packet) : (s.faultEntry c p).cfgQ = s.cfgQ := rfl
@[simp] theorem State.faultEntry_pendw (s : State) (c : Cause) (p : Packet) : (s.faultEntry c p).pendw = s.pendw := rfl
@[simp] theorem State.faultEntry_pendwValid (s : State) (c : Cause) (p : Packet) : (s.faultEntry c p).pendwValid = s.pendwValid := rfl
@[simp] theorem State.faultEntry_dest (s : State) (c : Cause) (p : Packet) : (s.faultEntry c p).dest = s.dest := rfl
@[simp] theorem State.faultEntry_destValid (s : State) (c : Cause) (p : Packet) : (s.faultEntry c p).destValid = s.destValid := rfl
@[simp] theorem State.faultEntry_wreg (s : State) (c : Cause) (p : Packet) : (s.faultEntry c p).wreg = s.wreg := rfl
@[simp] theorem State.faultEntry_wregValid (s : State) (c : Cause) (p : Packet) : (s.faultEntry c p).wregValid = s.wregValid := rfl
@[simp] theorem State.faultEntry_halted (s : State) (c : Cause) (p : Packet) : (s.faultEntry c p).halted = true := rfl
@[simp] theorem State.faultEntry_cause (s : State) (c : Cause) (p : Packet) : (s.faultEntry c p).cause = c := rfl
@[simp] theorem State.faultEntry_fcmd (s : State) (c : Cause) (p : Packet) : (s.faultEntry c p).fcmd = p.cmd := rfl
@[simp] theorem State.faultEntry_farg1 (s : State) (c : Cause) (p : Packet) : (s.faultEntry c p).farg1 = p.arg1 := rfl
@[simp] theorem State.faultEntry_farg2 (s : State) (c : Cause) (p : Packet) : (s.faultEntry c p).farg2 = p.arg2 := rfl
@[simp] theorem State.faultEntry_queue (s : State) (c : Cause) (p : Packet) : (s.faultEntry c p).queue = s.queue := rfl
@[simp] theorem State.faultEntry_hostWait (s : State) (c : Cause) (p : Packet) : (s.faultEntry c p).hostWait = s.hostWait := rfl
@[simp] theorem State.faultEntry_outstanding (s : State) (c : Cause) (p : Packet) : (s.faultEntry c p).outstanding = s.outstanding := rfl
@[simp] theorem State.faultEntry_unfenced (s : State) (c : Cause) (p : Packet) : (s.faultEntry c p).unfenced = s.unfenced := rfl
@[simp] theorem State.faultEntry_events (s : State) (c : Cause) (p : Packet) : (s.faultEntry c p).events = s.events := rfl
@[simp] theorem State.faultEntry_replies (s : State) (c : Cause) (p : Packet) : (s.faultEntry c p).replies = s.replies := rfl

/-! ### blockReset -/

@[simp] theorem State.blockReset_params (s : State) : s.blockReset.params = s.params := rfl
@[simp] theorem State.blockReset_sp (s : State) : s.blockReset.sp = [] := rfl
@[simp] theorem State.blockReset_acc (s : State) : s.blockReset.acc = [] := rfl
@[simp] theorem State.blockReset_mem (s : State) : s.blockReset.mem = s.mem := rfl
@[simp] theorem State.blockReset_cfgLd (s : State) : s.blockReset.cfgLd = resetPrecision := rfl
@[simp] theorem State.blockReset_cfgEx (s : State) : s.blockReset.cfgEx = resetPrecision := rfl
@[simp] theorem State.blockReset_cfgSt (s : State) : s.blockReset.cfgSt = resetPrecision := rfl
@[simp] theorem State.blockReset_cfgQ (s : State) : s.blockReset.cfgQ = resetQuant := rfl
@[simp] theorem State.blockReset_pendw (s : State) : s.blockReset.pendw = resetTile s.params := rfl
@[simp] theorem State.blockReset_pendwValid (s : State) : s.blockReset.pendwValid = false := rfl
@[simp] theorem State.blockReset_dest (s : State) : s.blockReset.dest = 0 := rfl
@[simp] theorem State.blockReset_destValid (s : State) : s.blockReset.destValid = false := rfl
@[simp] theorem State.blockReset_wreg (s : State) : s.blockReset.wreg = resetTile s.params := rfl
@[simp] theorem State.blockReset_wregValid (s : State) : s.blockReset.wregValid = false := rfl
@[simp] theorem State.blockReset_halted (s : State) : s.blockReset.halted = false := rfl
@[simp] theorem State.blockReset_cause (s : State) : s.blockReset.cause = .none := rfl
@[simp] theorem State.blockReset_fcmd (s : State) : s.blockReset.fcmd = 0 := rfl
@[simp] theorem State.blockReset_farg1 (s : State) : s.blockReset.farg1 = 0 := rfl
@[simp] theorem State.blockReset_farg2 (s : State) : s.blockReset.farg2 = 0 := rfl
@[simp] theorem State.blockReset_queue (s : State) : s.blockReset.queue = [] := rfl
@[simp] theorem State.blockReset_hostWait (s : State) : s.blockReset.hostWait = false := rfl
@[simp] theorem State.blockReset_outstanding (s : State) : s.blockReset.outstanding = [] := rfl
@[simp] theorem State.blockReset_unfenced (s : State) : s.blockReset.unfenced = s.unfenced := rfl
@[simp] theorem State.blockReset_events (s : State) : s.blockReset.events = s.events := rfl
@[simp] theorem State.blockReset_replies (s : State) : s.blockReset.replies = s.replies := rfl

end Sys2Proof.Machine
end

