-- ==== Sys2Proof/Laws/Store.lean ====
section
/-! SUPPORT. Reading after writing, and the canonical forms: MEM, SP and ACC as association lists. -/

namespace Sys2Proof.Machine

section Keys
variable {κ α : Type} [DecidableEq κ] {before : κ → κ → Bool}

/-- Reading after an insertion. -/
theorem lookupKey_insertKey (before : κ → κ → Bool) (k k' : κ) (v : α) (l : List (κ × α)) :
    lookupKey k' (insertKey before k v l) = if k = k' then some v else lookupKey k' l := by
  induction l with
  | nil => simp [insertKey, lookupKey]
  | cons c l ih =>
    by_cases hk : c.1 = k
    · by_cases hk' : k = k' <;> simp [insertKey, lookupKey, hk, hk']
    · by_cases hb : before k c.1 = true
      · by_cases hk' : k = k'
        · subst hk'
          simp [insertKey, lookupKey, hk, hb]
        · simp [insertKey, lookupKey, hk, hb, hk']
      · by_cases hk' : k = k'
        · subst hk'
          simp [insertKey, lookupKey, hk, hb, ih]
        · simp [insertKey, lookupKey, hk, hb, ih, hk']

/-- Reading after a removal. -/
theorem lookupKey_eraseKey (k k' : κ) (l : List (κ × α)) :
    lookupKey k' (eraseKey k l) = if k = k' then none else lookupKey k' l := by
  induction l with
  | nil => simp [eraseKey, lookupKey]
  | cons c l ih =>
    by_cases hk : c.1 = k
    · simp only [eraseKey, hk, if_true, ih, lookupKey]
      by_cases hk' : k = k' <;> simp [hk']
    · by_cases hk' : k = k'
      · subst hk'
        simp [eraseKey, lookupKey, hk, ih]
      · simp [eraseKey, lookupKey, hk, hk', ih]

/-- An entry of an insertion is the new one or an old one. -/
theorem mem_insertKey {before : κ → κ → Bool} {k : κ} {v : α} {l : List (κ × α)} {c : κ × α}
    (h : c ∈ insertKey before k v l) : c = (k, v) ∨ c ∈ l := by
  induction l with
  | nil => simpa [insertKey] using h
  | cons d l ih =>
    by_cases hk : d.1 = k
    · simp only [insertKey, hk, if_true] at h
      rcases List.mem_cons.1 h with h | h
      · exact .inl h
      · exact .inr (List.mem_cons_of_mem _ h)
    · by_cases hb : before k d.1 = true
      · simp only [insertKey, hk, hb, if_true, if_false] at h
        rcases List.mem_cons.1 h with h | h
        · exact .inl h
        · exact .inr h
      · simp only [insertKey, hk, hb, if_false] at h
        rcases List.mem_cons.1 h with h | h
        · exact .inr (by simp [h])
        · exact (ih h).imp id (List.mem_cons_of_mem _)

/-- An entry left by a removal is an old one. -/
theorem mem_eraseKey {k : κ} {l : List (κ × α)} {c : κ × α} (h : c ∈ eraseKey k l) : c ∈ l := by
  induction l with
  | nil => simp [eraseKey] at h
  | cons d l ih =>
    by_cases hk : d.1 = k
    · simp only [eraseKey, hk, if_true] at h
      exact List.mem_cons_of_mem _ (ih h)
    · simp only [eraseKey, hk, if_false] at h
      rcases List.mem_cons.1 h with h | h
      · simp [h]
      · exact List.mem_cons_of_mem _ (ih h)

/-- An insertion keeps the keys rising, for a strict total order. -/
theorem risingKeys_insertKey (trans : ∀ a b c, before a b = true → before b c = true → before a c = true)
    (total : ∀ a b, a ≠ b → before a b = false → before b a = true) {k : κ} {v : α} {l : List (κ × α)}
    (h : RisingKeys before l) : RisingKeys before (insertKey before k v l) := by
  induction l with
  | nil => simp [insertKey, RisingKeys]
  | cons d l ih =>
    have hd := List.pairwise_cons.1 h
    by_cases hk : d.1 = k
    · subst hk
      simpa [insertKey, RisingKeys] using hd
    · by_cases hb : before k d.1 = true
      · simp only [insertKey, hk, hb, if_true, if_false, RisingKeys]
        refine List.pairwise_cons.2 ⟨fun c hc => ?_, h⟩
        rcases List.mem_cons.1 hc with rfl | hc
        · exact hb
        · exact trans _ _ _ hb (hd.1 c hc)
      · simp only [insertKey, hk, hb, if_false, RisingKeys]
        refine List.pairwise_cons.2 ⟨fun c hc => ?_, ih hd.2⟩
        rcases mem_insertKey hc with rfl | hc
        · exact total _ _ (Ne.symm hk) (by simpa using hb)
        · exact hd.1 c hc

/-- A removal keeps the keys rising. -/
theorem risingKeys_eraseKey {k : κ} {l : List (κ × α)} (h : RisingKeys before l) :
    RisingKeys before (eraseKey k l) := by
  induction l with
  | nil => simp [eraseKey, RisingKeys]
  | cons d l ih =>
    have hd := List.pairwise_cons.1 h
    by_cases hk : d.1 = k
    · simpa [eraseKey, hk] using ih hd.2
    · simp only [eraseKey, hk, if_false, RisingKeys]
      exact List.pairwise_cons.2 ⟨fun c hc => hd.1 c (mem_eraseKey hc), ih hd.2⟩

end Keys

theorem addrBefore_trans (a b c : Nat) (h : addrBefore a b = true) (h' : addrBefore b c = true) :
    addrBefore a c = true := by
  simp only [addrBefore, decide_eq_true_eq] at *; omega

theorem addrBefore_total (a b : Nat) (h : a ≠ b) (h' : addrBefore a b = false) : addrBefore b a = true := by
  simp only [addrBefore, decide_eq_true_eq, decide_eq_false_iff_not] at *; omega

theorem cellBefore_trans (a b c : Nat × Nat) (h : cellBefore a b = true) (h' : cellBefore b c = true) :
    cellBefore a c = true := by
  simp only [cellBefore, Bool.or_eq_true, Bool.and_eq_true, decide_eq_true_eq] at *; omega

theorem cellBefore_total (a b : Nat × Nat) (h : a ≠ b) (h' : cellBefore a b = false) : cellBefore b a = true := by
  have h2 : a.1 ≠ b.1 ∨ a.2 ≠ b.2 := by
    by_contra hc
    push Not at hc
    exact h (Prod.ext hc.1 hc.2)
  simp only [cellBefore, Bool.or_eq_true, Bool.and_eq_true, decide_eq_true_eq, Bool.or_eq_false_iff,
    Bool.and_eq_false_iff, decide_eq_false_iff_not] at *
  omega

/-! ### MEM -/

/-- A byte of MEM after a byte write. -/
@[simp] theorem Memory.read_write (m : Memory) (a a' : Nat) (v : Byte) :
    (m.write a v).read a' = if a = a' then v else m.read a' := by
  by_cases hv : v = 0
  · simp only [Memory.write, Memory.read, hv, if_true, lookupKey_eraseKey]
    by_cases ha : a = a' <;> simp [ha]
  · simp only [Memory.write, Memory.read, hv, if_false, lookupKey_insertKey]
    by_cases ha : a = a' <;> simp [ha]

/-- A byte of MEM after a range write. -/
theorem Memory.read_writeRange (m : Memory) (a : Nat) (f : Nat → Byte) (n a' : Nat) :
    (m.writeRange a f n).read a' = if a ≤ a' ∧ a' < a + n then f (a' - a) else m.read a' := by
  induction n with
  | zero => rw [if_neg (by omega), Memory.writeRange]
  | succ n ih =>
    rw [Memory.writeRange, Memory.read_write, ih]
    by_cases h : a + n = a'
    · rw [if_pos h, if_pos (by omega)]
      congr 1; omega
    · rw [if_neg h]
      by_cases h2 : a ≤ a' ∧ a' < a + n
      · rw [if_pos h2, if_pos (by omega)]
      · rw [if_neg h2, if_neg (by omega)]

/-- A byte write keeps the canonical form. -/
theorem Memory.wf_write {m : Memory} (h : m.wf) (a : Nat) (v : Byte) : (m.write a v).wf := by
  by_cases hv : v = 0
  · simp only [Memory.write, hv, if_true]
    exact ⟨risingKeys_eraseKey h.1, fun c hc => h.2 c (mem_eraseKey hc)⟩
  · simp only [Memory.write, hv, if_false]
    refine ⟨risingKeys_insertKey addrBefore_trans addrBefore_total h.1, fun c hc => ?_⟩
    rcases mem_insertKey hc with rfl | hc
    · exact hv
    · exact h.2 c hc

/-- A range write keeps the canonical form. -/
theorem Memory.wf_writeRange {m : Memory} (h : m.wf) (a : Nat) (f : Nat → Byte) (n : Nat) :
    (m.writeRange a f n).wf := by
  induction n with
  | zero => exact h
  | succ n ih => exact Memory.wf_write ih _ _

/-- The addresses a byte write leaves listed. -/
theorem Memory.bound_write {m : Memory} {size : Nat} (h : ∀ c ∈ m, c.1 < size) {a : Nat} (ha : a < size) (v : Byte) :
    ∀ c ∈ m.write a v, c.1 < size := by
  intro c hc
  by_cases hv : v = 0
  · simp only [Memory.write, hv, if_true] at hc
    exact h c (mem_eraseKey hc)
  · simp only [Memory.write, hv, if_false] at hc
    rcases mem_insertKey hc with rfl | hc
    · exact ha
    · exact h c hc

/-- The addresses a range write leaves listed. -/
theorem Memory.bound_writeRange {m : Memory} {size : Nat} (h : ∀ c ∈ m, c.1 < size) (a : Nat) (f : Nat → Byte) (n : Nat)
    (ha : a + n ≤ size) : ∀ c ∈ m.writeRange a f n, c.1 < size := by
  induction n with
  | zero => exact h
  | succ n ih => exact Memory.bound_write (ih (by omega)) (by omega) _

/-! ### SP and ACC -/

/-- A cell after one cell is stored. -/
theorem CellStore.cell_put {α : Type} (st : CellStore α) (r c : Nat) (v : α) (r' c' : Nat) :
    (st.put r c v).cell r' c' = if r = r' ∧ c = c' then some v else st.cell r' c' := by
  simp [CellStore.put, CellStore.cell, lookupKey_insertKey, Prod.ext_iff]

/-- A cell after the start of a row is stored. -/
theorem CellStore.cell_putRow {α : Type} (st : CellStore α) (r : Nat) (f : Nat → α) (n r' c' : Nat) :
    (st.putRow r f n).cell r' c' = if r = r' ∧ c' < n then some (f c') else st.cell r' c' := by
  induction n with
  | zero => simp [CellStore.putRow]
  | succ n ih =>
    rw [CellStore.putRow, CellStore.cell_put, ih]
    by_cases h : r = r' ∧ n = c'
    · rw [if_pos h, if_pos (by omega), h.2]
    · rw [if_neg h]
      by_cases h2 : r = r' ∧ c' < n
      · rw [if_pos h2, if_pos (by omega)]
      · rw [if_neg h2, if_neg (by omega)]

/-- A cell after a grid is stored. -/
theorem CellStore.cell_putGrid {α : Type} (st : CellStore α) (r : Nat) (f : Nat → Nat → α) (n m r' c' : Nat) :
    (st.putGrid r f n m).cell r' c'
      = if r ≤ r' ∧ r' < r + m ∧ c' < n then some (f (r' - r) c') else st.cell r' c' := by
  induction m with
  | zero => rw [if_neg (by omega), CellStore.putGrid]
  | succ m ih =>
    rw [CellStore.putGrid, CellStore.cell_putRow, ih]
    by_cases h : r + m = r' ∧ c' < n
    · rw [if_pos h, if_pos (by omega), ← h.1, Nat.add_sub_cancel_left]
    · rw [if_neg h]
      by_cases h2 : r ≤ r' ∧ r' < r + m ∧ c' < n
      · rw [if_pos h2, if_pos (by omega)]
      · rw [if_neg h2, if_neg (by omega)]

/-- Storing a cell inside the store keeps the canonical form. -/
theorem CellStore.wf_put {α : Type} {rows cols : Nat} {st : CellStore α} (h : st.wf rows cols) {r c : Nat}
    (hr : r < rows) (hc : c < cols) (v : α) : (st.put r c v).wf rows cols := by
  refine ⟨risingKeys_insertKey cellBefore_trans cellBefore_total h.1, fun d hd => ?_⟩
  rcases mem_insertKey hd with rfl | hd
  · exact ⟨hr, hc⟩
  · exact h.2 d hd

/-- Storing the start of a row inside the store keeps the canonical form. -/
theorem CellStore.wf_putRow {α : Type} {rows cols : Nat} {st : CellStore α} (h : st.wf rows cols) {r : Nat}
    (hr : r < rows) (f : Nat → α) (n : Nat) (hn : n ≤ cols) : (st.putRow r f n).wf rows cols := by
  induction n with
  | zero => exact h
  | succ n ih => exact CellStore.wf_put (ih (by omega)) hr (by omega) _

/-- Storing a grid inside the store keeps the canonical form. -/
theorem CellStore.wf_putGrid {α : Type} {rows cols : Nat} {st : CellStore α} (h : st.wf rows cols) (r : Nat)
    (f : Nat → Nat → α) (n m : Nat) (hn : n ≤ cols) (hm : r + m ≤ rows) : (st.putGrid r f n m).wf rows cols := by
  induction m with
  | zero => exact h
  | succ m ih => exact CellStore.wf_putRow (ih (by omega)) (by omega) _ _ hn

/-- Memory after reset has the canonical form. -/
theorem reset_mem_wf : State.reset.mem.wf := by decide

end Sys2Proof.Machine
end

