-- ==== Sys2Proof/Laws/Commands.lean ====
section
/-! SUPPORT. What each shared operation of the commands, and each command, can do when it completes, and that no check
fails with cause NONE. -/

namespace Sys2Proof.Machine

/-! ### Shared operations -/

/-- A completed `wide_update` writes ACC alone (41_arithmetic R134). -/
theorem wideUpdate_ok {s t : State} {c : Nat} {accum : Bool} {prod : Nat → Nat → Int}
    (h : wideUpdate s c accum prod = .ok t) :
    ∃ new : Tile, t = storeAccTile s c new ∧
      ∀ i j, i < s.params.dim → j < s.params.dim →
        ∃ cur, (if accum then s.accElem (c + i) j = some cur else cur = 0) ∧
          inAcc s.params (cur + prod i j) = true ∧ tileAt new i j = cur + prod i j := by
  simp only [wideUpdate, bind_ok, Except.ok.injEq] at h
  obtain ⟨new, hg, rfl⟩ := h
  refine ⟨new, rfl, fun i j hi hj => ?_⟩
  obtain ⟨cur, h1, h2, h3⟩ := wideElem_ok.1 (gatherGrid_tileAt hg hi hj)
  exact ⟨cur, h1, h2, h3⟩

/-- ACC after a tile is stored in it. -/
theorem storeAccTile_accElem (s : State) (c : Nat) (t : Tile) (r j : Nat) :
    (storeAccTile s c t).accElem r j
      = if c ≤ r ∧ r < c + s.params.dim ∧ j < s.params.dim then some (tileAt t (r - c) j) else s.accElem r j := by
  simp [storeAccTile, State.accElem, CellStore.cell_putGrid]

/-- A completed `packed_update` rewrites the packed bytes of DIM SP rows alone (41_arithmetic R135). -/
theorem packedUpdate_ok {s t : State} {w c : Nat} {accum : Bool} {a b d : Tile}
    (h : packedUpdate s w c accum a b d = .ok t) :
    ∃ out : Tile, t = s.setSp (s.sp.putGrid c
        (fun i m => byteOfSlots w (fun u => enc w (tileAt out i (m * slots w + u))) (slots w))
        (rowBytes s.params w) s.params.dim) ∧
      ∀ i j, i < s.params.dim → j < s.params.dim →
        ∃ cur, packedCurrent s w accum (c + i) j = .ok cur ∧ tileAt out i j = packedCell w a b d cur i j s.params.dim := by
  simp only [packedUpdate, bind_ok, Except.ok.injEq] at h
  obtain ⟨out, hg, rfl⟩ := h
  refine ⟨out, rfl, fun i j hi hj => ?_⟩
  have := gatherGrid_tileAt hg hi hj
  simp only [bind_ok, Except.ok.injEq] at this
  obtain ⟨cur, h1, h2⟩ := this
  exact ⟨cur, h1, h2.symm⟩

/-- A DEST that passes its check is SENTINEL, or names DIM rows of the space the policy asks for (43_matmul R170). -/
theorem checkedDest_ok {s : State} {dest : Option LocalAddr} (h : checkedDest s = .ok dest) :
    (s.dest = sentinel ∧ dest = none) ∨
      ∃ la, dest = some la ∧ decodeLa s.dest = some la ∧ la.rsv = false ∧
        (la.space, la.accum) ∈ destSpaces s.cfgQ.policy ∧ la.row + s.params.dim ≤ rowsOf s.params la.space := by
  unfold checkedDest at h
  by_cases hs : s.dest = sentinel
  · simp only [hs, if_true, Except.ok.injEq] at h
    exact .inl ⟨hs, h.symm⟩
  · simp only [hs, if_false, bind_ok, Except.ok.injEq] at h
    obtain ⟨la, hla, rfl⟩ := h
    exact .inr ⟨la, rfl, checkLa_ok.1 hla⟩

/-- A completed `compute_body` writes ACC rows under WIDE, SP bytes under PACKED, nothing for a SENTINEL destination
(43_matmul R170). -/
theorem computeBody_ok {s t : State} {ar : Nat} {dla : LocalWord} {weight : Tile}
    (h : computeBody s ar dla weight = .ok t) :
    ∃ dest a d, checkedDest s = .ok dest ∧ spTile s ar s.cfgEx.width = .ok a ∧ biasTile s dla = .ok d ∧
      ((dest = none ∧ t = s) ∨
        (∃ la, dest = some la ∧ s.cfgQ.policy = .wide ∧
          wideUpdate s la.row la.accum (matmulStep s.params.dim a weight d) = .ok t) ∨
        (∃ la, dest = some la ∧ s.cfgQ.policy = .packed ∧
          packedUpdate s s.cfgSt.width la.row la.accum a weight d = .ok t)) := by
  simp only [computeBody, bind_ok] at h
  obtain ⟨dest, hd, a, ha, d, hb, h⟩ := h
  refine ⟨dest, a, d, hd, ha, hb, ?_⟩
  cases dest with
  | none => simp only [Except.ok.injEq] at h; exact .inl ⟨rfl, h.symm⟩
  | some la =>
    cases hp : s.cfgQ.policy with
    | wide => simp only [hp] at h; exact .inr (.inl ⟨la, rfl, rfl, h⟩)
    | packed => simp only [hp] at h; exact .inr (.inr ⟨la, rfl, rfl, h⟩)

/-- A completed `compute_body` changes SP and ACC at most. -/
theorem computeBody_frame {s t : State} {ar : Nat} {dla : LocalWord} {weight : Tile}
    (h : computeBody s ar dla weight = .ok t) : t = { s with sp := t.sp, acc := t.acc } := by
  obtain ⟨dest, a, d, -, -, -, ⟨-, rfl⟩ | ⟨la, -, -, h⟩ | ⟨la, -, -, h⟩⟩ := computeBody_ok h
  · rfl
  · obtain ⟨new, rfl, -⟩ := wideUpdate_ok h; rfl
  · obtain ⟨out, rfl, -⟩ := packedUpdate_ok h; rfl

/-- The checks COMPUTE.PRE and COMPUTE.ACC share, when they pass (43_matmul R172, R173). -/
theorem computeChecks_ok {s : State} {ala dla : LocalWord} {ar : Nat} :
    computeChecks s ala dla = .ok ar ↔
      (s.cfgEx.valid = true ∧ s.cfgQ.valid = true) ∧ (s.cfgQ.policy = .packed → s.cfgSt.valid = true) ∧
        (∃ a, checkLa s.params ala plainSp s.params.dim = .ok a ∧ a.row = ar) ∧
        (dla = sentinel ∨ ∃ d, checkLa s.params dla plainSp s.params.dim = .ok d) := by
  simp only [computeChecks, bind_ok, require_ok, exists_const]
  by_cases hs : dla = sentinel
  · simp [hs, and_assoc]
  · simp only [hs, if_false, false_or, bind_ok, Except.ok.injEq, and_assoc]
    constructor
    · rintro ⟨h1, h2, h3, a, ha, d, hd, he⟩; exact ⟨h1, h2, h3, ⟨a, ha, he⟩, d, hd⟩
    · rintro ⟨h1, h2, h3, ⟨a, ha, he⟩, d, hd⟩; exact ⟨h1, h2, h3, a, ha, d, hd, he⟩

/-! ### Every command settles one run of checks and writes -/

/-- The checks and writes of each command: its new state, or its fault cause. -/
def runOf : Instr → State → Except Cause State
  | .cfgprec role log2w arg1 _, s => runCfgprec role log2w arg1 s
  | .cfgacc shift relu policy _ _, s => .ok (s.setCfgQ { valid := true, shift := shift, relu := relu, policy := policy })
  | .mvin arg1 arg2, s => runMvin arg1 arg2 s
  | .mvout arg1 arg2, s => runMvout arg1 arg2 s
  | .preload arg1 arg2, s => runPreload arg1 arg2 s
  | .computePre arg1 arg2, s => runComputePre arg1 arg2 s
  | .computeAcc arg1 arg2, s => runComputeAcc arg1 arg2 s
  | .pack k lw arg1 arg2, s => runPack k lw arg1 arg2 s
  | .unpack k lw arg1 arg2, s => runUnpack k lw arg1 arg2 s
  | .fence _ _, s => .ok s
  | .flush _ _, s => .ok s

/-- Executing a command settles its run (60_exceptions R226, R241). -/
theorem exec_eq_settle (i : Instr) (s : State) : exec i s = settle i s (runOf i s) := by
  cases i <;> rfl

/-- A command completes exactly as its run does. -/
theorem exec_of_ok {i : Instr} {s t : State} (h : runOf i s = .ok t) : exec i s = .next t := by
  rw [exec_eq_settle, h]; rfl

/-- A command whose run fails takes the fault entry. -/
theorem exec_of_error {i : Instr} {s : State} {c : Cause} (h : runOf i s = .error c) :
    exec i s = .next (s.faultEntry c (encode i)) := by
  rw [exec_eq_settle, h]; rfl

/-- What a command's next state can be: its completed run, or the fault entry. -/
theorem exec_cases {i : Instr} {s t : State} (h : exec i s = .next t) :
    runOf i s = .ok t ∨ ∃ c, runOf i s = .error c ∧ t = s.faultEntry c (encode i) := by
  rw [exec_eq_settle] at h
  cases hr : runOf i s with
  | ok u => simp only [hr, settle, Host.Outcome.next.injEq] at h; exact .inl (by rw [h])
  | error c => simp only [hr, settle, Host.Outcome.next.injEq] at h; exact .inr ⟨c, rfl, h.symm⟩

/-! ### What each command writes when it completes -/

/-- CFGPREC (42_config R160). -/
theorem runCfgprec_ok {role : Role} {log2w : BitVec 3} {arg1 : ArgWord} {s t : State} :
    runCfgprec role log2w arg1 s = .ok t ↔
      role ≠ .reserved ∧ log2w.toNat ≤ 3 ∧ (rowWidthOf arg1).toNat = s.params.dim ∧
        (s.params.dim * 2 ^ log2w.toNat) % 8 = 0 ∧
        t = s.setCfg role { valid := true, log2w := log2w.setWidth 2, rowWidth := rowWidthOf arg1 } := by
  simp only [runCfgprec, bind_ok, require_ok, Except.ok.injEq, exists_const, @eq_comm _ t]

/-- MVIN (44_move R195). -/
theorem runMvin_ok {arg1 arg2 : ArgWord} {s t : State} (h : runMvin arg1 arg2 s = .ok t) :
    s.cfgLd.valid = true ∧ ∃ la, checkLa s.params (laOf arg2) [(.sp, false), (.acc, false), (.acc, true)] s.params.dim = .ok la ∧
      MemInRange s.params (memAddr arg1) (s.params.dim * rowBytes s.params s.cfgLd.width) ∧
      ((la.space = .sp ∧ t = s.setSp (s.sp.putGrid la.row
          (fun i b => s.memByte (memAddr arg1 + i * rowBytes s.params s.cfgLd.width + b))
          (rowBytes s.params s.cfgLd.width) s.params.dim)) ∨
       (la.space = .acc ∧ ∃ new, gatherGrid (fun i j => addResident s la.accum (la.row + i) j
          (memField s (memAddr arg1) s.cfgLd.width i j)) s.params.dim s.params.dim = .ok new ∧
          t = storeAccTile s la.row new)) := by
  simp only [runMvin, bind_ok, require_ok, exists_const] at h
  obtain ⟨h1, la, h2, h3, h⟩ := h
  refine ⟨h1, la, h2, h3, ?_⟩
  cases hs : la.space with
  | sp => simp only [hs, Except.ok.injEq] at h; exact .inl ⟨rfl, h.symm⟩
  | acc =>
    simp only [hs, bind_ok, Except.ok.injEq] at h
    obtain ⟨new, hn, h⟩ := h
    exact .inr ⟨rfl, new, hn, h.symm⟩

/-- MVOUT (44_move R196). -/
theorem runMvout_ok {arg1 arg2 : ArgWord} {s t : State} (h : runMvout arg1 arg2 s = .ok t) :
    s.cfgSt.valid = true ∧ ∃ la, checkLa s.params (laOf arg2) [(.sp, false), (.acc, false)] s.params.dim = .ok la ∧
      (la.space = .acc → s.cfgQ.valid = true) ∧
      MemInRange s.params (memAddr arg1) (s.params.dim * rowBytes s.params s.cfgSt.width) ∧
      ∃ rows, t = storeMemTile s (memAddr arg1) (rowBytes s.params s.cfgSt.width) rows ∧
      ((la.space = .sp ∧
          gatherGrid (fun i b => readSp s (la.row + i) b) s.params.dim (rowBytes s.params s.cfgSt.width) = .ok rows) ∨
       (la.space = .acc ∧ ∃ vals,
          gatherGrid (fun i j => readAcc s (la.row + i) j) s.params.dim s.params.dim = .ok vals ∧
          rows = vals.map (fun row => packSeq s.cfgSt.width
            (row.map (fun x => quantize x s.cfgQ.shift.toNat s.cfgQ.relu s.cfgSt.width))))) := by
  simp only [runMvout, bind_ok, require_ok, exists_const] at h
  obtain ⟨h1, la, h2, h3, h4, h⟩ := h
  refine ⟨h1, la, h2, h3, h4, ?_⟩
  cases hs : la.space with
  | sp =>
    simp only [hs, bind_ok, Except.ok.injEq] at h
    obtain ⟨rows, hn, h⟩ := h
    exact ⟨rows, h.symm, .inl ⟨rfl, hn⟩⟩
  | acc =>
    simp only [hs, bind_ok, Except.ok.injEq] at h
    obtain ⟨vals, hn, h⟩ := h
    exact ⟨_, h.symm, .inr ⟨rfl, vals, hn, rfl⟩⟩

/-- The weight operand of PRELOAD, when its checks pass (43_matmul R171). -/
theorem checkedWeight_ok {s : State} {wa : LocalWord} {wr : Option Nat} (h : checkedWeight s wa = .ok wr) :
    (wa = sentinel ∧ wr = none) ∨
      (wa ≠ sentinel ∧ s.cfgEx.valid = true ∧
        ∃ la, checkLa s.params wa plainSp s.params.dim = .ok la ∧ wr = some la.row) := by
  unfold checkedWeight at h
  by_cases hs : wa = sentinel
  · simp only [hs, if_true, Except.ok.injEq] at h
    exact .inl ⟨hs, h.symm⟩
  · simp only [hs, if_false, bind_ok, require_ok, exists_const, Except.ok.injEq] at h
    obtain ⟨h1, la, h2, rfl⟩ := h
    exact .inr ⟨hs, h1, la, h2, rfl⟩

/-- The destination operand of PRELOAD, when its checks pass (43_matmul R171). -/
theorem checkPreloadDest_ok {s : State} {ca : LocalWord} {u : Unit} :
    checkPreloadDest s ca = .ok u ↔
      ca = sentinel ∨ ∃ la, checkLa s.params ca (anySp ++ anyAcc) s.params.dim = .ok la := by
  unfold checkPreloadDest
  by_cases hs : ca = sentinel
  · simp [hs]
  · simp [hs, bind_ok]

/-- PRELOAD (43_matmul R171). -/
theorem runPreload_ok {arg1 arg2 : ArgWord} {s t : State} (h : runPreload arg1 arg2 s = .ok t) :
    checkPreloadDest s (laOf arg2) = .ok () ∧ s.destValid = false ∧
      ((checkedWeight s (laOf arg1) = .ok none ∧ t = s.clearPending.setDest (laOf arg2)) ∨
       (∃ r w, checkedWeight s (laOf arg1) = .ok (some r) ∧ spTile s r s.cfgEx.width = .ok w ∧
          t = (s.setPending w).setDest (laOf arg2))) := by
  simp only [runPreload, bind_ok, require_ok, exists_const] at h
  obtain ⟨wr, h1, u, h2, h3, h⟩ := h
  refine ⟨h2, h3, ?_⟩
  cases wr with
  | none => simp only [Except.ok.injEq] at h; exact .inl ⟨h1, h.symm⟩
  | some r =>
    simp only [bind_ok, Except.ok.injEq] at h
    obtain ⟨w, hw, h⟩ := h
    exact .inr ⟨r, w, h1, hw, h.symm⟩

/-- COMPUTE.PRE (43_matmul R172). -/
theorem runComputePre_ok {arg1 arg2 : ArgWord} {s t : State} (h : runComputePre arg1 arg2 s = .ok t) :
    ∃ ar u, computeChecks s (laOf arg1) (laOf arg2) = .ok ar ∧ s.destValid = true ∧ s.pendwValid = true ∧
      computeBody s ar (laOf arg2) s.pendw = .ok u ∧ t = u.makeResident s.pendw := by
  simp only [runComputePre, bind_ok, require_ok, exists_const, Except.ok.injEq] at h
  obtain ⟨ar, h1, h2, h3, u, h4, h⟩ := h
  exact ⟨ar, u, h1, h2, h3, h4, h.symm⟩

/-- COMPUTE.ACC (43_matmul R173). -/
theorem runComputeAcc_ok {arg1 arg2 : ArgWord} {s t : State} (h : runComputeAcc arg1 arg2 s = .ok t) :
    ∃ ar u, computeChecks s (laOf arg1) (laOf arg2) = .ok ar ∧ s.destValid = true ∧ s.wregValid = true ∧
      s.pendwValid = false ∧ computeBody s ar (laOf arg2) s.wreg = .ok u ∧ t = u.consumeDest := by
  simp only [runComputeAcc, bind_ok, require_ok, exists_const, Except.ok.injEq] at h
  obtain ⟨ar, h1, h2, h3, h4, u, h5, h⟩ := h
  exact ⟨ar, u, h1, h2, h3, h4, h5, h.symm⟩

/-- PACK (40_codec R113). -/
theorem runPack_ok {k : BitVec 16} {lw : BitVec 2} {arg1 arg2 : ArgWord} {s t : State}
    (h : runPack k lw arg1 arg2 s = .ok t) :
    k.toNat ≤ s.params.dim ∧ ∃ src dst v, checkLa s.params (laOf arg1) plainAcc 1 = .ok src ∧
      checkLa s.params (laOf arg2) plainSp 1 = .ok dst ∧ gather (fun j => readAcc s src.row j) k.toNat = .ok v ∧
      t = s.setSp (s.sp.putRow dst.row (fun b => (packSeq (widthOfLw lw) v).getD b 0) (packSeq (widthOfLw lw) v).length) := by
  simp only [runPack, bind_ok, require_ok, exists_const, Except.ok.injEq] at h
  obtain ⟨h1, src, h2, dst, h3, v, h4, h⟩ := h
  exact ⟨h1, src, dst, v, h2, h3, h4, h.symm⟩

/-- UNPACK (40_codec R114). -/
theorem runUnpack_ok {k : BitVec 16} {lw : BitVec 2} {arg1 arg2 : ArgWord} {s t : State}
    (h : runUnpack k lw arg1 arg2 s = .ok t) :
    k.toNat ≤ s.params.dim ∧ ∃ src dst bytes new, checkLa s.params (laOf arg1) plainSp 1 = .ok src ∧
      checkLa s.params (laOf arg2) anyAcc 1 = .ok dst ∧
      gather (fun b => readSp s src.row b) (packedLen k.toNat (widthOfLw lw)) = .ok bytes ∧
      gather (fun j => addResident s dst.accum dst.row j ((unpackSeq (widthOfLw lw) bytes k.toNat).getD j 0)) k.toNat
        = .ok new ∧
      t = s.setAcc (s.acc.putRow dst.row (fun j => new.getD j 0) k.toNat) := by
  simp only [runUnpack, bind_ok, require_ok, exists_const, Except.ok.injEq] at h
  obtain ⟨h1, src, h2, dst, h3, bytes, h4, new, h5, h⟩ := h
  exact ⟨h1, src, dst, bytes, new, h2, h3, h4, h5, h.symm⟩

/-! ### No check fails with cause NONE (60_exceptions R221, code 0 is never raised) -/

/-- A computation of a command never fails with cause NONE. -/
abbrev NamesItsFault {α : Type} (x : Except Cause α) : Prop := ∀ c, x = .error c → c ≠ .none

theorem namesItsFault_ok {α : Type} (a : α) : NamesItsFault (.ok a : Except Cause α) := by
  intro c h; simp at h

theorem namesItsFault_require {c : Prop} [Decidable c] {f : Cause} (h : f ≠ .none) : NamesItsFault (require c f) := by
  intro e he; rw [require_error] at he; rw [← he.2]; exact h

theorem namesItsFault_bind {α β : Type} {x : Except Cause α} {f : α → Except Cause β} (hx : NamesItsFault x)
    (hf : ∀ a, NamesItsFault (f a)) : NamesItsFault (x >>= f) := by
  intro c h
  rcases bind_error.1 h with h | ⟨a, -, h⟩
  · exact hx c h
  · exact hf a c h

theorem namesItsFault_gather {α : Type} {f : Nat → Except Cause α} (h : ∀ j, NamesItsFault (f j)) (n : Nat) :
    NamesItsFault (gather f n) := by
  intro c hc
  obtain ⟨j, -, hj, -⟩ := gather_error.1 hc
  exact h j c hj

theorem namesItsFault_checkLa (p : Params) (la : LocalWord) (allowed : List (Space × Bool)) (n : Nat) :
    NamesItsFault (checkLa p la allowed n) := by
  intro c h
  rcases checkLa_error h with rfl | rfl <;> simp

theorem namesItsFault_readSp (s : State) (r b : Nat) : NamesItsFault (readSp s r b) := by
  intro c h; rw [readSp_error] at h; simp [h.2]

theorem namesItsFault_readAcc (s : State) (r j : Nat) : NamesItsFault (readAcc s r j) := by
  intro c h; rw [readAcc_error] at h; simp [h.2]

theorem namesItsFault_addResident (s : State) (accum : Bool) (r j : Nat) (v : Int) :
    NamesItsFault (addResident s accum r j v) := by
  unfold addResident
  cases accum
  · exact namesItsFault_ok _
  · exact namesItsFault_bind (namesItsFault_readAcc _ _ _) fun _ =>
      namesItsFault_bind (namesItsFault_require (by simp)) fun _ => namesItsFault_ok _

theorem namesItsFault_spTile (s : State) (r w : Nat) : NamesItsFault (spTile s r w) :=
  namesItsFault_bind (namesItsFault_gather (fun _ => namesItsFault_gather (fun _ => namesItsFault_readSp _ _ _) _) _)
    fun _ => namesItsFault_ok _

theorem namesItsFault_biasTile (s : State) (dla : LocalWord) : NamesItsFault (biasTile s dla) := by
  unfold biasTile
  cases decodeLa dla
  · exact namesItsFault_ok _
  · exact namesItsFault_spTile _ _ _

theorem namesItsFault_wideUpdate (s : State) (c : Nat) (accum : Bool) (prod : Nat → Nat → Int) :
    NamesItsFault (wideUpdate s c accum prod) := by
  refine namesItsFault_bind (namesItsFault_gather (fun i => namesItsFault_gather (fun j => ?_) _) _)
    fun _ => namesItsFault_ok _
  refine namesItsFault_bind ?_ fun _ => namesItsFault_bind (namesItsFault_require (by simp)) fun _ => namesItsFault_ok _
  unfold residentElem
  cases accum
  · exact namesItsFault_ok _
  · exact namesItsFault_readAcc _ _ _

theorem namesItsFault_packedUpdate (s : State) (w c : Nat) (accum : Bool) (a b d : Tile) :
    NamesItsFault (packedUpdate s w c accum a b d) := by
  refine namesItsFault_bind (namesItsFault_gather (fun i => namesItsFault_gather (fun j => ?_) _) _)
    fun _ => namesItsFault_ok _
  refine namesItsFault_bind ?_ fun _ => namesItsFault_ok _
  unfold packedCurrent
  cases accum
  · exact namesItsFault_ok _
  · exact namesItsFault_bind (namesItsFault_readSp _ _ _) fun _ => namesItsFault_ok _

theorem namesItsFault_computeBody (s : State) (ar : Nat) (dla : LocalWord) (weight : Tile) :
    NamesItsFault (computeBody s ar dla weight) := by
  refine namesItsFault_bind ?_ fun dest => namesItsFault_bind (namesItsFault_spTile _ _ _) fun a =>
    namesItsFault_bind (namesItsFault_biasTile _ _) fun d => ?_
  · unfold checkedDest
    by_cases hs : s.dest = sentinel
    · simp only [hs, if_true]; exact namesItsFault_ok _
    · simp only [hs, if_false]
      exact namesItsFault_bind (namesItsFault_checkLa _ _ _ _) fun _ => namesItsFault_ok _
  · cases dest with
    | none => exact namesItsFault_ok _
    | some la =>
      cases hp : s.cfgQ.policy with
      | wide => simp only; exact namesItsFault_wideUpdate _ _ _ _
      | packed => simp only; exact namesItsFault_packedUpdate _ _ _ _ _ _ _

theorem namesItsFault_computeChecks (s : State) (ala dla : LocalWord) : NamesItsFault (computeChecks s ala dla) := by
  refine namesItsFault_bind (namesItsFault_require (by simp)) fun _ =>
    namesItsFault_bind (namesItsFault_require (by simp)) fun _ =>
      namesItsFault_bind (namesItsFault_checkLa _ _ _ _) fun a => ?_
  by_cases hs : dla = sentinel
  · simp only [hs, if_true]; exact namesItsFault_ok _
  · simp only [hs, if_false]
    exact namesItsFault_bind (namesItsFault_checkLa _ _ _ _) fun _ => namesItsFault_ok _

theorem namesItsFault_runPreload (arg1 arg2 : ArgWord) (s : State) : NamesItsFault (runPreload arg1 arg2 s) := by
  refine namesItsFault_bind ?_ fun wr => namesItsFault_bind ?_ fun _ =>
    namesItsFault_bind (namesItsFault_require (by simp)) fun _ => ?_
  · unfold checkedWeight
    by_cases hs : laOf arg1 = sentinel
    · simp only [hs, if_true]; exact namesItsFault_ok _
    · simp only [hs, if_false]
      exact namesItsFault_bind (namesItsFault_require (by simp)) fun _ =>
        namesItsFault_bind (namesItsFault_checkLa _ _ _ _) fun _ => namesItsFault_ok _
  · unfold checkPreloadDest
    by_cases hs : laOf arg2 = sentinel
    · simp only [hs, if_true]; exact namesItsFault_ok _
    · simp only [hs, if_false]
      exact namesItsFault_bind (namesItsFault_checkLa _ _ _ _) fun _ => namesItsFault_ok _
  · cases wr with
    | none => exact namesItsFault_ok _
    | some r => exact namesItsFault_bind (namesItsFault_spTile _ _ _) fun _ => namesItsFault_ok _

/-- No command faults with cause NONE (60_exceptions R221). -/
theorem namesItsFault_runOf (i : Instr) (s : State) : NamesItsFault (runOf i s) := by
  cases i with
  | cfgprec role log2w arg1 arg2 =>
    exact namesItsFault_bind (namesItsFault_require (by simp)) fun _ =>
      namesItsFault_bind (namesItsFault_require (by simp)) fun _ =>
        namesItsFault_bind (namesItsFault_require (by simp)) fun _ =>
          namesItsFault_bind (namesItsFault_require (by simp)) fun _ => namesItsFault_ok _
  | cfgacc shift relu policy arg1 arg2 => exact namesItsFault_ok _
  | mvin arg1 arg2 =>
    refine namesItsFault_bind (namesItsFault_require (by simp)) fun _ =>
      namesItsFault_bind (namesItsFault_checkLa _ _ _ _) fun la =>
        namesItsFault_bind (namesItsFault_require (by simp)) fun _ => ?_
    cases hs : la.space with
    | sp => exact namesItsFault_ok _
    | acc =>
      exact namesItsFault_bind
        (namesItsFault_gather (fun _ => namesItsFault_gather (fun _ => namesItsFault_addResident _ _ _ _ _) _) _)
        fun _ => namesItsFault_ok _
  | mvout arg1 arg2 =>
    refine namesItsFault_bind (namesItsFault_require (by simp)) fun _ =>
      namesItsFault_bind (namesItsFault_checkLa _ _ _ _) fun la =>
        namesItsFault_bind (namesItsFault_require (by simp)) fun _ =>
          namesItsFault_bind (namesItsFault_require (by simp)) fun _ => ?_
    cases hs : la.space with
    | sp =>
      exact namesItsFault_bind
        (namesItsFault_gather (fun _ => namesItsFault_gather (fun _ => namesItsFault_readSp _ _ _) _) _)
        fun _ => namesItsFault_ok _
    | acc =>
      exact namesItsFault_bind
        (namesItsFault_gather (fun _ => namesItsFault_gather (fun _ => namesItsFault_readAcc _ _ _) _) _)
        fun _ => namesItsFault_ok _
  | preload arg1 arg2 => exact namesItsFault_runPreload arg1 arg2 s
  | computePre arg1 arg2 =>
    exact namesItsFault_bind (namesItsFault_computeChecks _ _ _) fun _ =>
      namesItsFault_bind (namesItsFault_require (by simp)) fun _ =>
        namesItsFault_bind (namesItsFault_require (by simp)) fun _ =>
          namesItsFault_bind (namesItsFault_computeBody _ _ _ _) fun _ => namesItsFault_ok _
  | computeAcc arg1 arg2 =>
    exact namesItsFault_bind (namesItsFault_computeChecks _ _ _) fun _ =>
      namesItsFault_bind (namesItsFault_require (by simp)) fun _ =>
        namesItsFault_bind (namesItsFault_require (by simp)) fun _ =>
          namesItsFault_bind (namesItsFault_require (by simp)) fun _ =>
            namesItsFault_bind (namesItsFault_computeBody _ _ _ _) fun _ => namesItsFault_ok _
  | pack k lw arg1 arg2 =>
    exact namesItsFault_bind (namesItsFault_require (by simp)) fun _ =>
      namesItsFault_bind (namesItsFault_checkLa _ _ _ _) fun _ =>
        namesItsFault_bind (namesItsFault_checkLa _ _ _ _) fun _ =>
          namesItsFault_bind (namesItsFault_gather (fun _ => namesItsFault_readAcc _ _ _) _) fun _ => namesItsFault_ok _
  | unpack k lw arg1 arg2 =>
    exact namesItsFault_bind (namesItsFault_require (by simp)) fun _ =>
      namesItsFault_bind (namesItsFault_checkLa _ _ _ _) fun _ =>
        namesItsFault_bind (namesItsFault_checkLa _ _ _ _) fun _ =>
          namesItsFault_bind (namesItsFault_gather (fun _ => namesItsFault_readSp _ _ _) _) fun _ =>
            namesItsFault_bind (namesItsFault_gather (fun _ => namesItsFault_addResident _ _ _ _ _) _) fun _ =>
              namesItsFault_ok _
  | fence arg1 arg2 => exact namesItsFault_ok _
  | flush arg1 arg2 => exact namesItsFault_ok _

end Sys2Proof.Machine
end

