-- ==== Sys2Proof/Laws/PerInstr.lean ====
section
/-! SUPPORT. The opcode map selects by OPCODE; and, per instruction, the row that its encoded CMD word selects is its own
(30_encoding R88). -/

namespace Sys2Proof.Laws

/-- A byte masked with all ones. -/
theorem and_ff (o : BitVec 8) : o &&& 0xFF#8 = o := by
  revert o; decide

/-- Every mask of the opcode map covers OPCODE, and no two rows share an OPCODE (30_encoding R88). -/
theorem opcodeTable_opcodes :
    (∀ row ∈ opcodeTable, opcodeOf row.mask = 0xFF#8) ∧
      ∀ row ∈ opcodeTable, ∀ row' ∈ opcodeTable, opcodeOf row.pattern = opcodeOf row'.pattern → row = row' := by
  decide

/-- A row of the opcode map selects words of its own OPCODE only. -/
theorem opcodeOf_of_selects {row : OpcodeRow} {cmd : CmdWord} (hr : row ∈ opcodeTable) (h : row.selects cmd = true) :
    opcodeOf cmd = opcodeOf row.pattern := by
  have hm := opcodeTable_opcodes.1 row hr
  have h' : cmd &&& row.mask = row.pattern := by simpa [OpcodeRow.selects] using h
  rw [← h']
  unfold opcodeOf at hm ⊢
  rw [BitVec.extractLsb'_and, hm]
  exact (and_ff _).symm

/-- A row that selects a word is the one the map answers: at most one row matches any word (30_encoding R88). -/
theorem selectRow_eq {row : OpcodeRow} {cmd : CmdWord} (hr : row ∈ opcodeTable) (h : row.selects cmd = true) :
    selectRow cmd = some row := by
  unfold selectRow
  cases hf : opcodeTable.find? (·.selects cmd) with
  | none => exact absurd h (by simpa using List.find?_eq_none.1 hf row hr)
  | some row' =>
    have hm := List.mem_of_find?_eq_some hf
    have hs : row'.selects cmd = true := by simpa using List.find?_some hf
    rw [opcodeTable_opcodes.2 row' hm row hr ((opcodeOf_of_selects hm hs).symm.trans (opcodeOf_of_selects hr h))]

/-- A format C word masked to its fixed bits is its OPCODE (30_encoding R80). -/
theorem formatC_and_mask (k : BitVec 16) (lw : BitVec 2) (o : BitVec 8) :
    formatC k lw o &&& 0x0000FCFF#32 = formatN o := by
  have hm : (0x0000FCFF#32 : BitVec 32) = (0#16 ++ 63#6 ++ 0#2 ++ 0xFF#8 : BitVec (16 + 6 + 2 + 8)) := by decide
  have hn : formatN o = (0#16 ++ 0#6 ++ 0#2 ++ o : BitVec (16 + 6 + 2 + 8)) := by
    revert o; decide
  rw [hm, hn]
  show (k ++ 0#6 ++ lw ++ o : BitVec (16 + 6 + 2 + 8)) &&& (0#16 ++ 63#6 ++ 0#2 ++ 0xFF#8 : BitVec (16 + 6 + 2 + 8)) = _
  rw [BitVec.and_append, BitVec.and_append, BitVec.and_append, BitVec.and_zero, BitVec.zero_and, BitVec.and_zero, and_ff]

end Sys2Proof.Laws

namespace Sys2Proof.Laws.SelectsOwnRow

/-- The CMD word of `i`'s encoding selects the row of `i`'s mnemonic in the opcode map. -/
def Statement (i : Instr) : Prop := ∃ row ∈ opcodeTable, row.mnemonic = i.mnemonic ∧ selectRow (encode i).cmd = some row

/-- A row that matches the encoded word proves the statement. -/
theorem of_selects {i : Instr} (row : OpcodeRow) (hr : row ∈ opcodeTable) (hm : row.mnemonic = i.mnemonic)
    (h : row.selects (encode i).cmd = true) : Statement i :=
  ⟨row, hr, hm, selectRow_eq hr h⟩

theorem cfgprec (role : Role) (log2w : BitVec 3) (arg1 arg2 : ArgWord) : Statement (.cfgprec role log2w arg1 arg2) := by
  refine of_selects ⟨.cfgprec, 0x00000001#32, 0xFFFFE0FF#32⟩ (by decide) rfl ?_
  show OpcodeRow.selects _ (formatP log2w role.bits) = true
  cases role <;> (revert log2w; decide)

theorem cfgacc (shift : BitVec 6) (relu : Bool) (policy : Policy) (arg1 arg2 : ArgWord) :
    Statement (.cfgacc shift relu policy arg1 arg2) := by
  refine of_selects ⟨.cfgacc, 0x00000002#32, 0xFFFF00FF#32⟩ (by decide) rfl ?_
  show OpcodeRow.selects _ (formatQ policy.bit relu shift) = true
  cases policy <;> cases relu <;> (revert shift; decide)

theorem mvin (arg1 arg2 : ArgWord) : Statement (.mvin arg1 arg2) :=
  of_selects ⟨.mvin, 0x00000010#32, 0xFFFFFFFF#32⟩ (by decide) rfl (by show OpcodeRow.selects _ (formatN 0x10#8) = true; decide)

theorem mvout (arg1 arg2 : ArgWord) : Statement (.mvout arg1 arg2) :=
  of_selects ⟨.mvout, 0x00000011#32, 0xFFFFFFFF#32⟩ (by decide) rfl (by show OpcodeRow.selects _ (formatN 0x11#8) = true; decide)

theorem preload (arg1 arg2 : ArgWord) : Statement (.preload arg1 arg2) :=
  of_selects ⟨.preload, 0x00000020#32, 0xFFFFFFFF#32⟩ (by decide) rfl (by show OpcodeRow.selects _ (formatN 0x20#8) = true; decide)

theorem computePre (arg1 arg2 : ArgWord) : Statement (.computePre arg1 arg2) :=
  of_selects ⟨.computePre, 0x00000021#32, 0xFFFFFFFF#32⟩ (by decide) rfl (by show OpcodeRow.selects _ (formatN 0x21#8) = true; decide)

theorem computeAcc (arg1 arg2 : ArgWord) : Statement (.computeAcc arg1 arg2) :=
  of_selects ⟨.computeAcc, 0x00000022#32, 0xFFFFFFFF#32⟩ (by decide) rfl (by show OpcodeRow.selects _ (formatN 0x22#8) = true; decide)

theorem pack (k : BitVec 16) (lw : BitVec 2) (arg1 arg2 : ArgWord) : Statement (.pack k lw arg1 arg2) := by
  refine of_selects ⟨.pack, 0x00000030#32, 0x0000FCFF#32⟩ (by decide) rfl ?_
  show (formatC k lw 0x30#8 &&& 0x0000FCFF#32 == 0x00000030#32) = true
  rw [formatC_and_mask]; decide

theorem unpack (k : BitVec 16) (lw : BitVec 2) (arg1 arg2 : ArgWord) : Statement (.unpack k lw arg1 arg2) := by
  refine of_selects ⟨.unpack, 0x00000031#32, 0x0000FCFF#32⟩ (by decide) rfl ?_
  show (formatC k lw 0x31#8 &&& 0x0000FCFF#32 == 0x00000031#32) = true
  rw [formatC_and_mask]; decide

theorem fence (arg1 arg2 : ArgWord) : Statement (.fence arg1 arg2) :=
  of_selects ⟨.fence, 0x00000040#32, 0xFFFFFFFF#32⟩ (by decide) rfl (by show OpcodeRow.selects _ (formatN 0x40#8) = true; decide)

theorem flush (arg1 arg2 : ArgWord) : Statement (.flush arg1 arg2) :=
  of_selects ⟨.flush, 0x00000041#32, 0xFFFFFFFF#32⟩ (by decide) rfl (by show OpcodeRow.selects _ (formatN 0x41#8) = true; decide)

end Sys2Proof.Laws.SelectsOwnRow
end

