-- ==== Sys2Proof/Laws/Run.lean ====
section
/-! SUPPORT. What the end of a run is: a state reached by steps, whose host program is over, and the same however many steps
are allowed (60_exceptions R243). -/

namespace Sys2Proof.Machine

/-- A run whose host program is over has ended. -/
theorem endOfRun_of_over {s : State} (h : s.programOver = true) (n : Nat) : endOfRun s n = some s := by
  cases n <;> simp [endOfRun, h]

/-- A run whose host program is not over goes on with a step. -/
theorem endOfRun_of_next {s t : State} (h : s.programOver = false) (hs : step s = .next t) (n : Nat) :
    endOfRun s (n + 1) = endOfRun t n := by
  have hs' : systemStep s = .next t := hs
  simp [endOfRun, h, hs']

/-- How a run within one step more can end: at once, or where the run after a step ends. -/
theorem endOfRun_succ {s t : State} {n : Nat} (h : endOfRun s (n + 1) = some t) :
    (s.programOver = true ∧ t = s) ∨
      (s.programOver = false ∧ ∃ u, step s = .next u ∧ endOfRun u n = some t) := by
  cases ho : s.programOver with
  | true =>
    rw [endOfRun_of_over ho, Option.some.injEq] at h
    exact .inl ⟨rfl, h.symm⟩
  | false =>
    cases hs : step s with
    | next u => rw [endOfRun_of_next ho hs] at h; exact .inr ⟨rfl, u, rfl, h⟩
    | fault f => cases f
    | refused r =>
      have hs' : systemStep s = .refused r := hs
      simp [endOfRun, ho, hs'] at h

/-- The end of a run is reached by steps, and its host program is over (60_exceptions R243). -/
theorem endOfRun_reached {s t : State} {n : Nat} (h : endOfRun s n = some t) :
    t.programOver = true ∧ ∃ k, k ≤ n ∧ Host.Core.run Sys2Proof.core k s = .next t := by
  induction n generalizing s with
  | zero =>
    cases ho : s.programOver with
    | true => rw [endOfRun_of_over ho, Option.some.injEq] at h; subst h; exact ⟨ho, 0, le_rfl, rfl⟩
    | false => simp [endOfRun, ho] at h
  | succ n ih =>
    rcases endOfRun_succ h with ⟨ho, rfl⟩ | ⟨-, u, hs, hu⟩
    · exact ⟨ho, 0, Nat.zero_le _, rfl⟩
    · obtain ⟨ht, k, hk, hr⟩ := ih hu
      refine ⟨ht, k + 1, Nat.succ_le_succ hk, ?_⟩
      have hc : Sys2Proof.core.step s = .next u := hs
      simp only [Host.Core.run, hc]
      exact hr

/-- Allowing more steps does not move the end of a run. -/
theorem endOfRun_mono {s t : State} {n : Nat} (h : endOfRun s n = some t) (m : Nat) : endOfRun s (n + m) = some t := by
  induction n generalizing s with
  | zero =>
    cases ho : s.programOver with
    | true => rw [endOfRun_of_over ho] at h ⊢; exact h
    | false => simp [endOfRun, ho] at h
  | succ n ih =>
    rw [Nat.succ_add_eq_add_succ, Nat.add_succ]
    rcases endOfRun_succ h with ⟨ho, rfl⟩ | ⟨ho, u, hs, hu⟩
    · exact endOfRun_of_over ho _
    · rw [endOfRun_of_next ho hs]; exact ih hu

/-- A run has one end, so one outcome (60_exceptions R243, 20_memory R71). -/
theorem endOfRun_unique {s t u : State} {n m : Nat} (ht : endOfRun s n = some t) (hu : endOfRun s m = some u) : t = u := by
  have h1 := endOfRun_mono ht m
  have h2 := endOfRun_mono hu n
  rw [Nat.add_comm, h1, Option.some.injEq] at h2
  exact h2

end Sys2Proof.Machine
end

