-- ==== Sys2Proof/Laws/System.lean ====
section
/-! SUPPORT. What a step of the system can do, said once: the block step, the host actions, the completion of a fence. -/

namespace Sys2Proof.Machine

/-- What fetching can do (60_exceptions R241). -/
theorem fetch_some {s : State} {p : Packet} {t : State} :
    s.fetch = some (p, t) ↔ s.halted = false ∧ ∃ rest, s.queue = p :: rest ∧ t = s.setQueue rest := by
  unfold State.fetch
  cases hh : s.halted with
  | true => simp
  | false =>
    cases hq : s.queue with
    | nil => simp
    | cons q l =>
      simp only [Bool.false_eq_true, if_false, Option.some.injEq, Prod.mk.injEq, List.cons.injEq, true_and]
      constructor
      · rintro ⟨rfl, rfl⟩; exact ⟨l, ⟨rfl, rfl⟩, rfl⟩
      · rintro ⟨rest, ⟨rfl, rfl⟩, rfl⟩; exact ⟨rfl, rfl⟩

/-- The block is idle exactly when it is halted or Q is empty (60_exceptions R241, R249). -/
theorem fetch_none {s : State} : s.fetch = none ↔ s.halted = true ∨ s.queue = [] := by
  unfold State.fetch
  cases hh : s.halted with
  | true => simp
  | false => cases hq : s.queue <;> simp

/-- What a block step can do: nothing while idle; else the head packet leaves Q and its command completes, or the fault
entry records that packet's instruction, or that illegal packet (60_exceptions R241). -/
theorem blockStep_cases {s t : State} (h : blockStep s = .next t) :
    (s.fetch = none ∧ t = s) ∨
      ∃ p rest, s.halted = false ∧ s.queue = p :: rest ∧
        ((∃ e, decode p = .error e ∧ t = (s.setQueue rest).faultEntry .illegalCommand p) ∨
         (∃ i, decode p = .ok i ∧ runOf i (s.setQueue rest) = .ok t) ∨
         (∃ i c, decode p = .ok i ∧ c ≠ .none ∧ runOf i (s.setQueue rest) = .error c ∧
            t = (s.setQueue rest).faultEntry c (encode i))) := by
  unfold blockStep at h
  cases hf : s.fetch with
  | none => simp only [hf, Host.Outcome.next.injEq] at h; exact .inl ⟨rfl, h.symm⟩
  | some pt =>
    obtain ⟨p, u⟩ := pt
    obtain ⟨hh, rest, hq, rfl⟩ := fetch_some.1 hf
    simp only [hf, runPacket] at h
    refine .inr ⟨p, rest, hh, hq, ?_⟩
    cases hd : decode p with
    | error e => simp only [hd, Host.Outcome.next.injEq] at h; exact .inl ⟨e, rfl, h.symm⟩
    | ok i =>
      simp only [hd] at h
      rcases exec_cases h with hr | ⟨c, hr, rfl⟩
      · exact .inr (.inl ⟨i, rfl, hr⟩)
      · exact .inr (.inr ⟨i, c, rfl, namesItsFault_runOf _ _ _ hr, hr, rfl⟩)

/-- What a step can do: complete a fence, take a block turn, or take the host's next action (60_exceptions R242). -/
theorem step_cases {s t : State} (h : step s = .next t) :
    (s.fenceDone = true ∧ t = s.completeFence) ∨
      (s.fenceDone = false ∧
        ((s.events = [] ∧ blockStep s = .next t) ∨
         (∃ rest, s.events = .block :: rest ∧ blockStep (s.setEvents rest) = .next t) ∨
         (∃ a rest, s.events = .host a :: rest ∧ s.hostMustWait a = true ∧ blockStep s = .next t) ∨
         (∃ a rest, s.events = .host a :: rest ∧ s.hostMustWait a = false ∧ takeAction a (s.setEvents rest) = .next t))) := by
  unfold step systemStep at h
  by_cases hd : s.fenceDone = true
  · simp only [hd, if_true, Host.Outcome.next.injEq] at h; exact .inl ⟨hd, h.symm⟩
  · refine .inr ⟨by simpa using hd, ?_⟩
    simp only [hd] at h
    cases he : s.events with
    | nil => simp only [he] at h; exact .inl ⟨rfl, h⟩
    | cons e rest =>
      cases e with
      | block => simp only [he] at h; exact .inr (.inl ⟨rest, rfl, h⟩)
      | host a =>
        by_cases hw : s.hostMustWait a = true
        · simp [he, hw] at h; exact .inr (.inr (.inl ⟨a, rest, rfl, hw, h⟩))
        · simp [he, hw] at h
          exact .inr (.inr (.inr ⟨a, rest, rfl, by simpa using hw, h⟩))

/-- What a host action can do when it is taken (60_exceptions R240). -/
theorem takeAction_cases {a : HostAction} {s t : State} (h : takeAction a s = .next t) :
    (∃ p, a = .push p ∧ t = s.pushPacket p) ∨
    (∃ addr, a = .readMem addr ∧ addr.toNat < s.params.memSize ∧
      t = (s.noteRace (s.races addr.toNat)).reply ((s.memByte addr.toNat).setWidth 64)) ∨
    (∃ addr v, a = .writeMem addr v ∧ addr.toNat < s.params.memSize ∧
      t = (s.noteRace (s.races addr.toNat)).setMem (s.mem.write addr.toNat v)) ∨
    (a = .readStatus ∧ t = s.reply s.statusWord) ∨ (a = .readFarg1 ∧ t = s.reply s.farg1) ∨
    (a = .readFarg2 ∧ t = s.reply s.farg2) ∨ (a = .fence ∧ t = (s.pushPacket fencePacket).startWait) ∨
    (a = .reset ∧ t = s.blockReset) := by
  cases a with
  | push p => simp only [takeAction, Host.Outcome.next.injEq] at h; simp [h]
  | readMem addr =>
    by_cases hb : addr.toNat < s.params.memSize
    · simp only [takeAction, hb, if_true, Host.Outcome.next.injEq] at h; simp [hb, h]
    · simp [takeAction, hb] at h
  | writeMem addr v =>
    by_cases hb : addr.toNat < s.params.memSize
    · simp only [takeAction, hb, if_true, Host.Outcome.next.injEq] at h; simp [hb, h]
    · simp [takeAction, hb] at h
  | readStatus => simp only [takeAction, Host.Outcome.next.injEq] at h; simp [h]
  | readFarg1 => simp only [takeAction, Host.Outcome.next.injEq] at h; simp [h]
  | readFarg2 => simp only [takeAction, Host.Outcome.next.injEq] at h; simp [h]
  | fence => simp only [takeAction, Host.Outcome.next.injEq] at h; simp [h]
  | reset => simp only [takeAction, Host.Outcome.next.injEq] at h; simp [h]

/-- What a push leaves (60_exceptions R240). -/
theorem pushPacket_eq (s : State) (p : Packet) :
    s.pushPacket p = { s with
      queue := if s.halted then s.queue else s.queue ++ [p]
      outstanding := if s.halted then s.outstanding else s.outstanding ++ (footprintOf s.params p).toList } := by
  unfold State.pushPacket
  by_cases hh : s.halted = true
  · simp only [if_pos hh]
  · simp only [if_neg hh, State.setQueue, State.setOutstanding]

/-- Each update of one precision register, by role (42_config R160). -/
theorem setCfg_eq (s : State) (role : Role) (v : PrecisionReg) :
    s.setCfg role v = { s with
      cfgLd := if role = .ld then v else s.cfgLd
      cfgEx := if role = .ex then v else s.cfgEx
      cfgSt := if role = .st then v else s.cfgSt } := by
  cases role <;> rfl

/-- What each command can write when it completes (10_state R39). -/
theorem runOf_frame {i : Instr} {s t : State} (h : runOf i s = .ok t) :
    t = { s with
      sp := t.sp, acc := t.acc, mem := t.mem, cfgLd := t.cfgLd, cfgEx := t.cfgEx, cfgSt := t.cfgSt, cfgQ := t.cfgQ,
      pendw := t.pendw, pendwValid := t.pendwValid, dest := t.dest, destValid := t.destValid, wreg := t.wreg,
      wregValid := t.wregValid } := by
  cases i with
  | cfgprec role log2w arg1 arg2 => obtain ⟨-, -, -, -, rfl⟩ := runCfgprec_ok.1 h; rw [setCfg_eq]
  | cfgacc shift relu policy arg1 arg2 => simp only [runOf, Except.ok.injEq] at h; subst h; rfl
  | mvin arg1 arg2 => obtain ⟨-, la, -, -, ⟨-, rfl⟩ | ⟨-, new, -, rfl⟩⟩ := runMvin_ok h <;> rfl
  | mvout arg1 arg2 => obtain ⟨-, la, -, -, -, rows, rfl, -⟩ := runMvout_ok h; rfl
  | preload arg1 arg2 => obtain ⟨-, -, ⟨-, rfl⟩ | ⟨r, w, -, -, rfl⟩⟩ := runPreload_ok h <;> rfl
  | computePre arg1 arg2 =>
    obtain ⟨ar, u, -, -, -, hb, rfl⟩ := runComputePre_ok h
    rw [computeBody_frame hb]; rfl
  | computeAcc arg1 arg2 =>
    obtain ⟨ar, u, -, -, -, -, hb, rfl⟩ := runComputeAcc_ok h
    rw [computeBody_frame hb]; rfl
  | pack k lw arg1 arg2 => obtain ⟨-, src, dst, v, -, -, -, rfl⟩ := runPack_ok h; rfl
  | unpack k lw arg1 arg2 => obtain ⟨-, src, dst, bytes, new, -, -, -, -, rfl⟩ := runUnpack_ok h; rfl
  | fence arg1 arg2 => simp only [runOf, Except.ok.injEq] at h; subst h; rfl
  | flush arg1 arg2 => simp only [runOf, Except.ok.injEq] at h; subst h; rfl

end Sys2Proof.Machine
end

