-- ==== Sys2Proof/Laws/Vocabulary.lean ====
section
/-! SUPPORT. What the checks answer in the vocabulary of Safety.lean, and what it takes for every step to keep a property. -/

namespace Sys2Proof.Machine

/-- A command whose run fails ends in the fault entry (60_exceptions R226, R227). -/
theorem faultsWith_of_run {i : Instr} {s : State} {c : Cause} (h : runOf i s = .error c) : FaultsWith i s c (exec i s) :=
  exec_of_error h

/-- An address that is not legal raises ILLEGAL_ADDRESS (30_encoding R85). -/
theorem checkLa_of_not_legal {p : Params} {arg : ArgWord} {allowed : List (Space × Bool)} {n : Nat}
    (h : ¬ LegalAddress arg allowed) : checkLa p (laOf arg) allowed n = .error .illegalAddress := by
  unfold checkLa
  cases hd : decodeLa (laOf arg) with
  | none => rfl
  | some la =>
    simp only [LegalAddress, hd, Option.mem_def, Option.some.injEq, exists_eq_left', not_and_or] at h
    by_cases h1 : la.rsv = false
    · have h2 := h.resolve_left (by simp [h1])
      simp [require, h1, h2]
    · simp [require, h1]

/-- A legal address whose rows are not all in range raises ROW_OUT_OF_RANGE (30_encoding R85). -/
theorem checkLa_of_not_rows {s : State} {arg : ArgWord} {allowed : List (Space × Bool)} {n : Nat}
    (h : LegalAddress arg allowed) (hr : ¬ RowsInRange s arg n) :
    checkLa s.params (laOf arg) allowed n = .error .rowOutOfRange := by
  obtain ⟨la, hd, h1, h2⟩ := h
  have hd' : decodeLa (laOf arg) = some la := hd
  simp only [RowsInRange, hd', Option.mem_def, Option.some.injEq, forall_eq'] at hr
  simp [checkLa, hd', require, h1, h2, hr]

/-- A legal address whose rows are in range passes (30_encoding R85). -/
theorem checkLa_of_legal {s : State} {arg : ArgWord} {allowed : List (Space × Bool)} {n : Nat}
    (h : LegalAddress arg allowed) (hr : RowsInRange s arg n) :
    ∃ la, checkLa s.params (laOf arg) allowed n = .ok la ∧ decodeLa (laOf arg) = some la ∧ (la.space, la.accum) ∈ allowed := by
  obtain ⟨la, hd, h1, h2⟩ := h
  exact ⟨la, checkLa_ok.2 ⟨hd, h1, h2, hr la hd⟩, hd, h2⟩

/-- An address that names its rows passes with those rows (30_encoding R85). -/
theorem checkLa_of_names {s : State} {arg : ArgWord} {allowed : List (Space × Bool)} {n row : Nat} {space : Space}
    {accum : Bool} (h : NamesRows s arg space accum row n) (hm : (space, accum) ∈ allowed) :
    checkLa s.params (laOf arg) allowed n = .ok ⟨space, accum, false, row⟩ :=
  checkLa_ok.2 ⟨h.1, rfl, hm, h.2⟩

/-- A legal address is no sentinel (30_encoding R84). -/
theorem laOf_ne_sentinel {arg : ArgWord} {allowed : List (Space × Bool)} (h : LegalAddress arg allowed) :
    laOf arg ≠ sentinel := by
  obtain ⟨la, hd, -⟩ := h
  intro e
  simp [decodeLa, e] at hd

/-- A grid of SP bytes with an undef byte raises UNINIT_READ (10_state R27). -/
theorem gatherGrid_readSp_undef {s : State} {r m n i j : Nat} (hi : i < m) (hj : j < n) (h : s.spByte (r + i) j = none) :
    gatherGrid (fun i b => readSp s (r + i) b) m n = .error .uninitRead := by
  cases hg : gatherGrid (fun i b => readSp s (r + i) b) m n with
  | ok rows =>
    have := gatherGrid_getD hg 0 hi hj
    simp [readSp, h] at this
  | error c =>
    unfold gatherGrid at hg
    obtain ⟨a, -, h1, -⟩ := gather_error.1 hg
    obtain ⟨b, -, h2, -⟩ := gather_error.1 h1
    simp only [readSp_error] at h2
    rw [h2.2]

/-- A grid of ACC elements with an undef element raises UNINIT_READ (10_state R27). -/
theorem gatherGrid_readAcc_undef {s : State} {r m n i j : Nat} (hi : i < m) (hj : j < n)
    (h : s.accElem (r + i) j = none) : gatherGrid (fun i j => readAcc s (r + i) j) m n = .error .uninitRead := by
  cases hg : gatherGrid (fun i j => readAcc s (r + i) j) m n with
  | ok rows =>
    have := gatherGrid_getD hg 0 hi hj
    simp [readAcc, h] at this
  | error c =>
    unfold gatherGrid at hg
    obtain ⟨a, -, h1, -⟩ := gather_error.1 hg
    obtain ⟨b, -, h2, -⟩ := gather_error.1 h1
    simp only [readAcc_error] at h2
    rw [h2.2]

/-- A tile with an undef packed byte is UNINIT_READ (40_codec R109). -/
theorem spTile_of_undef {s : State} {r w i b : Nat} (hi : i < s.params.dim) (hb : b < rowBytes s.params w)
    (h : s.spByte (r + i) b = none) : spTile s r w = .error .uninitRead := by
  unfold spTile
  simp only [gatherGrid_readSp_undef hi hb h]
  rfl

/-- A tile that holds the elements `f` is read as `f` (40_codec R109). -/
theorem spTile_of_holdsTile {s : State} {r : Nat} {p : PrecisionReg} {f : Nat → Nat → Int}
    (hw : s.params.dim * p.width % 8 = 0) (h : HoldsTile s r p.width f) :
    ∃ t, spTile s r p.width = .ok t ∧ ∀ i j, i < s.params.dim → j < s.params.dim → tileAt t i j = f i j := by
  have hc := p.width_cases
  have hdef : ∀ i b, i < s.params.dim → b < rowBytes s.params p.width → (s.spByte (r + i) b).isSome = true := by
    intro i b hi hb
    have hj : b * slots p.width < s.params.dim := by
      unfold rowBytes at hb
      rcases hc with e | e | e | e <;> rw [e] at hb ⊢ <;> simp only [slots] <;> omega
    have hm : b * slots p.width / slots p.width = b := by
      rcases hc with e | e | e | e <;> rw [e] <;> simp [slots]
    have hf := h i (b * slots p.width) hi hj
    unfold spField at hf
    rw [hm, Option.map_eq_some_iff] at hf
    obtain ⟨v, hv, -⟩ := hf
    simp [hv]
  obtain ⟨t, ht⟩ := spTile_total hdef
  refine ⟨t, ht, fun i j hi hj => ?_⟩
  have hf := h i j hi hj
  unfold spField at hf
  rw [Option.map_eq_some_iff] at hf
  obtain ⟨v, hv, hf⟩ := hf
  rw [← hf]
  exact (spTile_ok ht).2.2.2 i j v hi hj (byteIndex_lt hc hw hj) hv

/-- The bias tile of an operand that holds `f` is `f` (41_arithmetic R133). -/
theorem biasTile_of_holdsBias {s : State} {arg : ArgWord} {f : Nat → Nat → Int}
    (hw : s.params.dim * s.cfgEx.width % 8 = 0) (h : HoldsBias s arg f) :
    ∃ t, biasTile s (laOf arg) = .ok t ∧ ∀ i j, i < s.params.dim → j < s.params.dim → tileAt t i j = f i j := by
  rcases h with ⟨hs, rfl⟩ | ⟨row, hn, hf⟩
  · refine ⟨zeroTile s.params.dim, by simp [biasTile, hs, decodeLa], fun i j hi hj => ?_⟩
    simp [tileAt, zeroTile, List.getD_eq_getElem?_getD, hi, hj]
  · obtain ⟨t, ht, hv⟩ := spTile_of_holdsTile hw hf
    exact ⟨t, by simp [biasTile, hn.1, ht], hv⟩

/-- The model's step product is the sum of 41_arithmetic R132. -/
theorem matmulStep_eq_stepProduct {n : Nat} {a b d : Tile} {fa fd : Nat → Nat → Int} {i j : Nat} (hi : i < n) (hj : j < n)
    (ha : ∀ i j, i < n → j < n → tileAt a i j = fa i j) (hd : ∀ i j, i < n → j < n → tileAt d i j = fd i j) :
    matmulStep n a b d i j = stepProduct n fa (tileAt b) fd i j := by
  have hsum : ∀ m, m ≤ n →
      sumBelow (fun k => tileAt a i k * tileAt b k j) m = ∑ k ∈ Finset.range m, fa i k * tileAt b k j := by
    intro m
    induction m with
    | zero => intro _; simp [sumBelow]
    | succ m ih => intro hm; rw [Finset.sum_range_succ, ← ih (by omega), sumBelow, ha i m hi (by omega)]
  unfold matmulStep stepProduct
  rw [hsum n le_rfl, hd i j hi hj]

/-- Every step keeps a property that each named update, and each command that completes, keeps (60_exceptions R242). -/
theorem step_keeps {P : State → Prop} (hev : ∀ s es, P s → P (s.setEvents es)) (hdone : ∀ s, P s → P s.completeFence)
    (hqueue : ∀ s q, P s → P (s.setQueue q)) (hfault : ∀ s c p, c ≠ .none → P s → P (s.faultEntry c p))
    (hrun : ∀ s t i, P s → runOf i s = .ok t → P t) (hpush : ∀ s p, P s → P (s.pushPacket p))
    (hwait : ∀ s, P s → P s.startWait) (hrace : ∀ s b, P s → P (s.noteRace b)) (hreply : ∀ s v, P s → P (s.reply v))
    (hmem : ∀ s a v, a < s.params.memSize → P s → P (s.setMem (s.mem.write a v))) (hreset : ∀ s, P s → P s.blockReset)
    {s t : State} (h : P s) (hs : step s = .next t) : P t := by
  have hb : ∀ s t, P s → blockStep s = .next t → P t := by
    intro s t h hs
    rcases blockStep_cases hs with ⟨-, rfl⟩ | ⟨p, rest, -, -, ⟨e, -, rfl⟩ | ⟨i, -, hr⟩ | ⟨i, c, -, hc, -, rfl⟩⟩
    · exact h
    · exact hfault _ _ _ (by simp) (hqueue _ _ h)
    · exact hrun _ _ _ (hqueue _ _ h) hr
    · exact hfault _ _ _ hc (hqueue _ _ h)
  rcases step_cases hs with
    ⟨-, rfl⟩ | ⟨-, ⟨-, hb'⟩ | ⟨r, -, hb'⟩ | ⟨a, r, -, -, hb'⟩ | ⟨a, r, -, -, ha⟩⟩
  · exact hdone _ h
  · exact hb _ _ h hb'
  · exact hb _ _ (hev _ _ h) hb'
  · exact hb _ _ h hb'
  · have h := hev s r h
    rcases takeAction_cases ha with ⟨p, -, rfl⟩ | ⟨p, -, -, rfl⟩ | ⟨p, v, -, hp, rfl⟩ | ⟨-, rfl⟩ | ⟨-, rfl⟩ | ⟨-, rfl⟩ |
      ⟨-, rfl⟩ | ⟨-, rfl⟩
    · exact hpush _ _ h
    · exact hreply _ _ (hrace _ _ h)
    · exact hmem _ _ _ hp (hrace _ _ h)
    · exact hreply _ _ h
    · exact hreply _ _ h
    · exact hreply _ _ h
    · exact hwait _ (hpush _ _ h)
    · exact hreset _ h

end Sys2Proof.Machine
end

