-- ==== Sys2Proof/Tests/Slice0.lean ====
section
/-! SUPPORT. Tests: words of the spec decode; each well-formedness check refuses an ill-formed term; one-step vectors of
95_test_vectors.md; and, for every statement with hypotheses, a concrete state and operands that meet them (`witness_…`).
Expected results are the spec's own, except in `witness_…`, which expect nothing. -/

-- One theorem at a time: many checked at once ask for more threads than the memory limit leaves room for.
set_option Elab.async false

namespace Sys2Proof.Tests

open Sys2Proof.Machine

/-- The next state, if the outcome is one. -/
def stateOf : Host.Outcome State Fault Refusal → Option State
  | .next t => some t
  | _ => none

/-- What a fault records in the next state: HALTED, CAUSE, FCMD. -/
def faultOf (o : Host.Outcome State Fault Refusal) : Option (Bool × Cause × CmdWord) :=
  (stateOf o).map (fun t => (t.halted, t.cause, t.fcmd))

/-- LA `sp:N` as an ARG word. -/
def sp (n : Nat) : ArgWord := (LocalOperand.sp n).arg
/-- LA `acc:N` as an ARG word. -/
def acc (n : Nat) : ArgWord := (LocalOperand.acc n).arg
/-- LA `acc+:N` as an ARG word. -/
def accPlus (n : Nat) : ArgWord := (LocalOperand.accPlus n).arg
/-- LA `-` as an ARG word. -/
def dash : ArgWord := LocalOperand.dash.arg

/-! ### Decoding (30_encoding R77 to R80, R88, R89; words of 95_test_vectors 2.3 and of the rules' examples) -/

theorem test_decode_cfgprec : decode ⟨0x00000D01#32, 4#64, 0#64⟩ = .ok (.cfgprec .ex 3#3 4#64 0#64) := by decide +kernel
theorem test_decode_cfgacc : decode ⟨0x00004202#32, 0#64, 0#64⟩ = .ok (.cfgacc 2#6 true .wide 0#64 0#64) := by
  decide +kernel
theorem test_decode_mvin : decode ⟨0x00000010#32, 0x100#64, 0#64⟩ = .ok (.mvin 0x100#64 (sp 0)) := by decide +kernel
theorem test_decode_mvout : decode ⟨0x00000011#32, 0x200#64, 0x80000004#64⟩ = .ok (.mvout 0x200#64 (acc 4)) := by
  decide +kernel
theorem test_decode_preload : decode ⟨0x00000020#32, 4#64, 0x80000000#64⟩ = .ok (.preload (sp 4) (acc 0)) := by
  decide +kernel
theorem test_decode_computePre : decode ⟨0x00000021#32, 0#64, 0xFFFFFFFF#64⟩ = .ok (.computePre (sp 0) dash) := by
  decide +kernel
theorem test_decode_computeAcc : decode ⟨0x00000022#32, 4#64, 8#64⟩ = .ok (.computeAcc (sp 4) (sp 8)) := by decide +kernel
theorem test_decode_pack :
    decode ⟨0x00040130#32, 0x80000000#64, 8#64⟩ = .ok (.pack 4#16 1#2 (acc 0) (sp 8)) := by decide +kernel
theorem test_decode_unpack :
    decode ⟨0x00040131#32, 0#64, 0x80000000#64⟩ = .ok (.unpack 4#16 1#2 (sp 0) (acc 0)) := by decide +kernel
theorem test_decode_fence : decode ⟨0x00000040#32, 5#64, 6#64⟩ = .ok (.fence 5#64 6#64) := by decide +kernel
theorem test_decode_flush : decode ⟨0x00000041#32, 0xDEADBEEF#64, 0#64⟩ = .ok (.flush 0xDEADBEEF#64 0#64) := by
  decide +kernel

/-- The ILLEGAL_COMMAND rows of 95_test_vectors 2.3, and OPCODE 0xFF. -/
theorem test_decode_illegal :
    [0x00000301#32, 0x00002001#32, 0x00010002#32, 0x00000000#32, 0x00000110#32, 0x00000012#32, 0x00000430#32, 0x000000FF#32].map
        (fun cmd => decode ⟨cmd, 4#64, 0#64⟩)
      = [.error .reservedRole, .error .reservedBitSet, .error .reservedBitSet, .error .unassignedOpcode,
          .error .reservedBitSet, .error .unassignedOpcode, .error .reservedBitSet, .error .unassignedOpcode] := by
  decide +kernel

/-- CMD in bits 31..0, ARG1 in bits 95..32, ARG2 in bits 159..96. -/
theorem test_decodeTableWord :
    decodeTableWord 160 (0x00000022 + 4 * 2 ^ 32 + 8 * 2 ^ 96) = some (.computeAcc (sp 4) (sp 8)) := by decide +kernel

/-- The word placed is the word the next step runs. -/
theorem test_withFetchWord :
    (stateOf (step (State.reset.withFetchWord 160 (0x00000801 + 4 * 2 ^ 32)))).map (·.cfgLd) = some ⟨true, 2#2, 4#16⟩ := by
  decide +kernel

/-- `pack.2 4, acc:0, sp:8` assembles to 00040130 / 80000000 / 8 (40_codec R113, example). -/
theorem test_assemble_pack :
    assemble (.pack .w2 4#16 (.acc 0) (.sp 8)) = ⟨0x00040130#32, 0x80000000#64, 8#64⟩ := by decide +kernel

/-- `compute.pre sp:0` expands to `compute.pre sp:0, -` (30_encoding R94). -/
theorem test_expand_computePre :
    assemble ((PseudoLine.computePre (.sp 0)).expand Params.vectors) = ⟨0x00000021#32, 0#64, 0xFFFFFFFF#64⟩ := by
  decide +kernel

/-! ### Well-formedness: each check refuses an ill-formed term -/

theorem test_wellFormed_refuses_role_3 : (Instr.cfgprec .reserved 0#3 0#64 0#64).wellFormed = false := by decide
theorem test_wellFormed_refuses_row_numbers :
    (LocalOperand.sp (2 ^ 29)).wellFormed = false ∧ (LocalOperand.spPlus (2 ^ 29)).wellFormed = false ∧
      (LocalOperand.acc (2 ^ 29)).wellFormed = false ∧ (LocalOperand.accPlus (2 ^ 29)).wellFormed = false := by decide
theorem test_wellFormed_refuses_preload_w_dash : (PseudoLine.preloadW .dash (.acc 0)).wellFormed = false := by decide
theorem test_memory_wf_refuses :
    ¬ Memory.wf [(2, 1#8), (1, 1#8)] ∧ ¬ Memory.wf [(1, 0#8)] ∧ ¬ Memory.wf [(1, 1#8), (1, 2#8)] := by decide

/-! ### One-step vectors (95_test_vectors section 2 and the rules' examples) -/

/-- Reset with the three precision registers at W = 2^log2w and CFG_Q as given. -/
def configured (log2w : BitVec 2) (q : QuantReg) : State :=
  { State.reset with cfgLd := ⟨true, log2w, 4#16⟩, cfgEx := ⟨true, log2w, 4#16⟩, cfgSt := ⟨true, log2w, 4#16⟩, cfgQ := q }

/-- CFG_Q with SHIFT 0 and RELU 0. -/
def plain (policy : Policy) : QuantReg := ⟨true, 0#6, false, policy⟩

/-- 95 2.3: `cfgprec ld, 4, 4`: STATUS = 0x0000100100000201, FARG1 = 4, CFG_LD still invalid. -/
theorem test_cfgprec_violation :
    (stateOf (exec (.cfgprec .ld 4#3 4#64 0#64) State.reset)).map (fun t => (t.statusWord, t.farg1, t.cfgLd.valid))
      = some (0x0000100100000201#64, 4#64, false) := by decide +kernel

/-- 95 2.3: `cfgacc 63, 0, packed`. -/
theorem test_cfgacc :
    (stateOf (exec (.cfgacc 63#6 false .packed 0#64 0#64) State.reset)).map (·.cfgQ) = some ⟨true, 63#6, false, .packed⟩ := by
  decide +kernel

/-- 44_move R195, example: at W = 2, MEM[0x100..] = B4 1B 55 AA gives SP[0..3][0]. -/
theorem test_mvin_sp :
    (stateOf (exec (.mvin 0x100#64 (sp 0))
        { configured 1#2 (plain .wide) with mem := [(0x100, 0xB4#8), (0x101, 0x1B#8), (0x102, 0x55#8), (0x103, 0xAA#8)] })).map
      (fun t => (t.spByte 0 0, t.spByte 1 0, t.spByte 2 0, t.spByte 3 0, t.spByte 0 1))
      = some (some 0xB4#8, some 0x1B#8, some 0x55#8, some 0xAA#8, none) := by decide +kernel

/-- 95 2.4: ACC[0] = [2^31-1, 0, 0, 0], MEM[0] = 01, `mvin 0, acc+:0`: ACC_OVERFLOW. -/
theorem test_mvin_overflow :
    faultOf (exec (.mvin 0#64 (accPlus 0))
        { configured 3#2 (plain .wide) with
          mem := [(0, 1#8)], acc := CellStore.putGrid [((0, 0), 2147483647)] 0 (fun i j => if i + j = 0 then 2147483647 else 0) 4 4 })
      = some (true, .accOverflow, 0x10#32) := by decide +kernel

/-- 44_move R196, example: W = 4, s = 2, ReLU, ACC[4] = -17, 100, 3, 28 gives 70 70 (rows 5 to 7 all zero here). -/
theorem test_mvout_acc :
    (stateOf (exec (.mvout 0x200#64 (acc 4))
        { configured 2#2 ⟨true, 2#6, true, .wide⟩ with
          acc := CellStore.putGrid [] 4 (fun i j => if i = 0 then [(-17 : Int), 100, 3, 28].getD j 0 else 0) 4 4 })).map
      (fun t => (t.memByte 0x200, t.memByte 0x201, t.memByte 0x202)) = some (0x70#8, 0x70#8, 0#8) := by decide +kernel

/-- 95 2.4: from reset plus `cfgprec st, 4, 3`: `mvout 0, sp:0`: UNINIT_READ. -/
theorem test_mvout_undef :
    faultOf (exec (.mvout 0#64 (sp 0)) { State.reset with cfgSt := ⟨true, 3#2, 4#16⟩ }) = some (true, .uninitRead, 0x11#32) := by
  decide +kernel

/-- 43_matmul R171, example: `preload sp:4, acc:0` captures the tile at SP rows 4..7 and sets DEST = acc:0. -/
theorem test_preload :
    (stateOf (exec (.preload (sp 4) (acc 0))
        { configured 1#2 (plain .wide) with
          sp := [((4, 0), 0xB4#8), ((5, 0), 0x1B#8), ((6, 0), 0x55#8), ((7, 0), 0xAA#8)] })).map
      (fun t => (t.pendw, t.pendwValid, t.dest, t.destValid))
      = some ([[0, 1, -1, -2], [-1, -2, 1, 0], [1, 1, 1, 1], [-2, -2, -2, -2]], true, 0x80000000#32, true) := by
  decide +kernel

/-- SP rows 0..3 = (1, 2, 3, 4) at W = 8, a pending destination, and the identity as pending or resident weight. -/
def ready (dest : LocalWord) (pending : Bool) (policy : Policy) : State :=
  { configured 3#2 (plain policy) with
    sp := CellStore.putGrid [] 0 (fun _ j => BitVec.ofNat 8 (j + 1)) 4 4, dest := dest, destValid := true
    pendw := [[1, 0, 0, 0], [0, 1, 0, 0], [0, 0, 1, 0], [0, 0, 0, 1]], pendwValid := pending
    wreg := [[0, 0, 0, 1], [0, 0, 1, 0], [0, 1, 0, 0], [1, 0, 0, 0]], wregValid := !pending }

/-- 43_matmul R172, example: PENDW = identity, A = (1, 2, 3, 4), D = SENTINEL, DEST = acc:0, WIDE: ACC <- A. -/
theorem test_computePre :
    (stateOf (exec (.computePre (sp 0) dash) (ready 0x80000000#32 true .wide))).map
        (fun t => (t.accElem 0 0, t.accElem 3 3, t.destValid, t.pendwValid, t.wregValid))
      = some (some 1, some 4, false, false, true) := by decide +kernel

/-- 43_matmul R173, 41_arithmetic R133: A = D = (1, 2, 3, 4), the resident weight reversing columns: 4+1, 3+2, ... -/
theorem test_computeAcc :
    (stateOf (exec (.computeAcc (sp 0) (sp 0)) (ready 0x80000004#32 false .wide))).map
        (fun t => (t.accElem 4 0, t.accElem 7 3, t.destValid)) = some (some 5, some 5, false) := by decide +kernel

/-- 43_matmul R170: under PACKED an ACC destination is ILLEGAL_ADDRESS. -/
theorem test_computePre_policy :
    faultOf (exec (.computePre (sp 0) dash) (ready 0x80000000#32 true .packed)) = some (true, .illegalAddress, 0x21#32) := by
  decide +kernel

/-- 43_matmul R173: COMPUTE.ACC with a pending weight is UNUSED_WEIGHT. -/
theorem test_computeAcc_unused :
    faultOf (exec (.computeAcc (sp 0) dash) { ready 0x80000000#32 true .wide with wregValid := true })
      = some (true, .unusedWeight, 0x22#32) := by decide +kernel

/-- 40_codec R113, example: ACC[0] = 0, 1, -1, -2 packed at W = 2 gives SP[8][0] = B4. -/
theorem test_pack :
    (stateOf (exec (.pack 4#16 1#2 (acc 0) (sp 8))
        { State.reset with acc := [((0, 0), 0), ((0, 1), 1), ((0, 2), -1), ((0, 3), -2)] })).map
      (fun t => (t.spByte 8 0, t.spByte 8 1)) = some (some 0xB4#8, none) := by decide +kernel

/-- 40_codec R114, example: SP[0][0] = B4 unpacked at W = 2 gives 0, 1, -1, -2. -/
theorem test_unpack :
    (stateOf (exec (.unpack 4#16 1#2 (sp 0) (acc 0)) { State.reset with sp := [((0, 0), 0xB4#8)] })).map
      (fun t => (t.accElem 0 0, t.accElem 0 1, t.accElem 0 2, t.accElem 0 3))
      = some (some 0, some 1, some (-1), some (-2)) := by decide +kernel

/-- 40_codec R113, R114: K = 5 exceeds DIM = 4. -/
theorem test_unpack_count :
    faultOf (exec (.unpack 5#16 1#2 (sp 0) (acc 0)) State.reset) = some (true, .countOutOfRange, 0x00050131#32) := by
  decide +kernel

/-- 95 2.3: `flush 0xDEADBEEF` and FENCE with ARGs 5 / 6 change nothing. -/
theorem test_fence_flush :
    stateOf (exec (.flush 0xDEADBEEF#64 0#64) State.reset) = some State.reset ∧
      stateOf (exec (.fence 5#64 6#64) State.reset) = some State.reset := by decide +kernel

/-- 95 2.1, 2.2: codec and quantization rows. -/
theorem test_codec_vectors :
    packSeq 4 [7, -8, 3] = [0x87#8, 0x03#8] ∧ packSeq 1 [-1, 0, -1, 5, -7] = [0x15#8] ∧ fieldSet 0xB4#8 1 2 3 = 0xBC#8 ∧
      unpackSeq 1 [0x9F#8] 8 = [-1, -1, -1, -1, -1, 0, 0, -1] ∧ wrap 4 8 = -8 ∧ wrap 8 (-129) = 127 ∧
      quantize (-7) 1 false 4 = -4 ∧ quantize (2 ^ 40) 63 false 8 = 0 ∧ quantize (-1000) 3 false 8 = -125 := by
  decide +kernel

/-- 60_exceptions R243, 45_sync R211: a run is not over while a host action is left or a fence waits, and block turns left
do not matter; a fence that waits with Q empty ends its run with the step that completes it. -/
theorem test_endOfRun :
    ({ State.reset with events := [.block, .host .readStatus] } : State).programOver = false ∧
      ({ State.reset with hostWait := true } : State).programOver = false ∧
      ({ State.reset with events := [.block] } : State).programOver = true ∧
      endOfRun { State.reset with hostWait := true } 0 = none ∧
      endOfRun { State.reset with hostWait := true } 1 = some State.reset := by decide +kernel

/-- The DIM of 30_encoding R94's expansion, where it does not fit ROW_WIDTH: its low 16 bits (log 21). -/
theorem test_expand_wide_dim :
    (assemble ((PseudoLine.cfgprecLd 3#3).expand { Params.vectors with dim := 65540 })).arg1 = 4#64 := by decide +kernel

/-! ### Witnesses: states and operands that meet every statement's hypotheses -/

/-- DIM 2, eight SP rows, four ACC rows, nine-bit accumulator, 64 bytes of MEM, two packets. -/
def small : Params := { dim := 2, spRows := 8, accRows := 4, accBits := some 9, memSize := 64, qdepth := 2 }

/-- W = 4: one byte a row. -/
def w4 : PrecisionReg := ⟨true, 2#2, 2#16⟩

/-- The last two SP rows hold [[1, 2], [-2, -1]], the last two ACC rows [[1, 2], [3, 255]], the last two MEM bytes the same
SP tile; everything is configured, a weight is pending, none resident; the destination is the last two ACC rows. -/
def base : State :=
  { State.initial small with
    sp := [((6, 0), 0x21#8), ((7, 0), 0xFE#8)], acc := [((2, 0), 1), ((2, 1), 2), ((3, 0), 3), ((3, 1), 255)]
    mem := [(62, 0x21#8), (63, 0xFE#8)], cfgLd := w4, cfgEx := w4, cfgSt := w4, cfgQ := plain .wide
    pendw := [[1, 0], [0, 1]], pendwValid := true, dest := 0x80000002#32, destValid := true }

/-- The same with a resident weight, none pending. -/
def resident : State := { base with pendwValid := false, wregValid := true }

/-- No destination and no weight pending. -/
def idle : State := { base with pendwValid := false, destValid := false }

/-- Under PACKED, the destination the last two SP rows, accumulating. -/
def packedBase : State := { base with cfgQ := plain .packed, dest := 0x40000006#32 }

/-- The tile of the last two SP rows. -/
def tile : Nat → Nat → Int := tileAt [[1, 2], [-2, -1]]

/-- The elements of the last two ACC rows. -/
def accTile : Nat → Nat → Int := tileAt [[1, 2], [3, 255]]

/-- A property of the cells of a 2 x 2 tile. -/
theorem cells {P : Nat → Nat → Prop} (h : ∀ i < 2, ∀ j < 2, P i j) : ∀ i j, i < 2 → j < 2 → P i j :=
  fun i j hi hj => h i hi j hj

theorem witness_DecodeEncodeAgree : (Instr.cfgprec .st 7#3 4#64 0#64).wellFormed = true := by decide
theorem witness_EncodeInvertsDecode : decode ⟨0x00030330#32, 1#64, 2#64⟩ = .ok (.pack 3#16 3#2 1#64 2#64) := by
  decide +kernel

/-- One illegal word for each case, the last OPCODE before an assigned one and the lowest reserved bits among them. -/
theorem witness_IllegalWordsRaiseIllegalCommand :
    [0x0F, 0x2001, 0x10002, 0x430, 0x110, 0x301].map (decodeTableWord 32) = [none, none, none, none, none, none] ∧
      ∀ p : Packet, ({ base with queue := [p] } : State).halted = false ∧ ({ base with queue := [p] } : State).queue = p :: [] :=
  ⟨by decide +kernel, fun _ => ⟨rfl, rfl⟩⟩

theorem witness_LocalOperandsNameTheirRows : 0 < 2 ^ 29 ∧ 2 ^ 29 - 1 < 2 ^ 29 := by decide
theorem witness_CodecRoundTripClampsDensely : 8 ∈ [1, 2, 4, 8] ∧ ([1, 2, 3, 4] : List Int).length * 2 % 8 = 0 := by decide
theorem witness_FieldSetReplacesOneSlot : 4 ∈ [1, 2, 4, 8] ∧ 1 < 8 / 4 ∧ 15 < 2 ^ 4 ∧ 7 < 8 := by decide
theorem witness_FieldDecodeInvertsEncode :
    4 ∈ [1, 2, 4, 8] ∧ 15 < 2 ^ 4 ∧ (-2 ^ (4 - 1) ≤ (-8 : Int) ∧ (-8 : Int) ≤ 2 ^ (4 - 1) - 1) := by decide
theorem witness_PackedLoopIsWrappedProduct : 1 ∈ [1, 2, 4, 8] := by decide
theorem witness_QuantizeFloorsThenClamps :
    4 ∈ [1, 2, 4, 8] ∧ (-1 : Int) < 0 ∧ small.accBits = some 9 ∧ inAcc small (-256) = true ∧ inAcc small 255 = true ∧ 9 < 10 := by
  decide
theorem witness_QuantizeRange : 1 ∈ [1, 2, 4, 8] := by decide
theorem witness_StepProductBounded :
    (∀ i j : Nat, -128 ≤ (fun _ _ => -128 : Nat → Nat → Int) i j ∧ (fun _ _ => -128 : Nat → Nat → Int) i j ≤ 127) ∧
      ({ small with dim := 131071, accBits := some 32 } : Params).accBits = some 32 ∧
      ((131071 : Nat) : Int) * 16384 + 128 ≤ 2 ^ (32 - 1) - 1 := by
  refine ⟨fun _ _ => ⟨by norm_num, by norm_num⟩, rfl, by norm_num⟩

theorem witness_CfgprecSetsItsRole :
    (3#3).toNat ≤ 3 ∧ ((2#64).extractLsb' 0 16).toNat = base.params.dim ∧ base.params.dim * 2 ^ (3#3).toNat % 8 = 0 := by decide
theorem witness_CfgprecViolationFaults :
    Role.ld ≠ .reserved ∧ 3 < (4#3).toNat ∧ ((3#64).extractLsb' 0 16).toNat ≠ base.params.dim ∧
      base.params.dim * 2 ^ (1#3).toNat % 8 ≠ 0 := by decide

theorem witness_MvinCopiesTileToScratchpad :
    base.cfgLd.valid = true ∧ NamesRows base (sp 6) .sp false 6 base.params.dim ∧
      (62#64).toNat + base.params.dim * (base.params.dim * base.cfgLd.width / 8) ≤ base.params.memSize := by decide +kernel
theorem witness_MvinDecodesTileToAccumulator :
    let s : State := { base with acc := [((2, 0), 1), ((2, 1), 2), ((3, 0), 3), ((3, 1), -255)] }
    s.cfgLd.valid = true ∧ NamesRows s (accPlus 2) .acc true 2 s.params.dim ∧
      (62#64).toNat + s.params.dim * (s.params.dim * s.cfgLd.width / 8) ≤ s.params.memSize ∧
      ∀ i j, i < 2 → j < 2 → s.accElem (2 + i) j = some (tileAt [[1, 2], [3, -255]] i j) ∧
        inAcc s.params (tileAt [[1, 2], [3, -255]] i j + tile i j) = true := by
  refine ⟨by decide +kernel, by decide +kernel, by decide +kernel, cells (by decide +kernel)⟩

theorem witness_MvinFaultsInOrder :
    ({ base with cfgLd := { w4 with valid := false } } : State).cfgLd.valid = false ∧ base.cfgLd.valid = true ∧
      ¬ LegalAddress (LocalOperand.spPlus 0).arg [(.sp, false), (.acc, false), (.acc, true)] ∧
      ¬ LegalAddress dash [(.sp, false), (.acc, false), (.acc, true)] ∧
      LegalAddress (sp 7) [(.sp, false), (.acc, false), (.acc, true)] ∧ ¬ RowsInRange base (sp 7) base.params.dim ∧
      LegalAddress (acc 2) [(.sp, false), (.acc, false), (.acc, true)] ∧ RowsInRange base (acc 2) base.params.dim ∧
      base.params.memSize < (63#64).toNat + base.params.dim * (base.params.dim * base.cfgLd.width / 8) := by decide +kernel

/-- Element (1, 1) fails: 255 + 1 is out of range in the first state, undef in the second. -/
theorem witness_MvinAccumulateReportsFirstFault :
    let s : State := { base with mem := [(62, 0x21#8), (63, 0x1E#8)] }
    let u : State := { s with acc := [((2, 0), 1), ((2, 1), 2), ((3, 0), 3)] }
    let field := fun i j => unpackSigned (s.memByte (62 + i + j / 2)) (j % 2) 4
    s.cfgLd.valid = true ∧ NamesRows s (accPlus 2) .acc true 2 s.params.dim ∧
      62 + s.params.dim * (s.params.dim * s.cfgLd.width / 8) ≤ s.params.memSize ∧
      (∀ i < 2, ∀ j < 2, i + j < 2 →
        u.accElem (2 + i) j = s.accElem (2 + i) j ∧ (s.accElem (2 + i) j).any (fun cur => inAcc s.params (cur + field i j)) = true) ∧
      s.accElem 3 1 = some 255 ∧ inAcc s.params (255 + field 1 1) = false ∧ u.accElem 3 1 = none := by decide +kernel

theorem witness_MvoutCopiesScratchpadTile :
    base.cfgSt.valid = true ∧ NamesRows base (sp 6) .sp false 6 base.params.dim ∧
      (62#64).toNat + base.params.dim * (base.params.dim * base.cfgSt.width / 8) ≤ base.params.memSize ∧
      ∀ i < 2, ∀ b < 1, base.spByte (6 + i) b = some (if i = 0 then 0x21#8 else 0xFE#8) := by decide +kernel
theorem witness_MvoutQuantizesAccumulatorTile :
    base.cfgSt.valid = true ∧ base.cfgQ.valid = true ∧ ConfigLegal base ∧ NamesRows base (acc 2) .acc false 2 base.params.dim ∧
      (62#64).toNat + base.params.dim * (base.params.dim * base.cfgSt.width / 8) ≤ base.params.memSize ∧
      ∀ i < 2, ∀ j < 2, base.accElem (2 + i) j = some (accTile i j) := by decide +kernel
theorem witness_MvoutFaultsInOrder :
    ({ base with cfgSt := { w4 with valid := false } } : State).cfgSt.valid = false ∧ base.cfgSt.valid = true ∧
      ¬ LegalAddress (accPlus 2) [(.sp, false), (.acc, false)] ∧
      LegalAddress (acc 3) [(.sp, false), (.acc, false)] ∧ ¬ RowsInRange base (acc 3) base.params.dim ∧
      LegalAddress (acc 2) [(.acc, false)] ∧ RowsInRange base (acc 2) base.params.dim ∧
      ({ base with cfgQ := resetQuant } : State).cfgQ.valid = false ∧ base.cfgQ.valid = true ∧
      LegalAddress (sp 6) [(.sp, false)] ∧ RowsInRange base (sp 6) base.params.dim ∧
      ¬ (63#64).toNat + base.params.dim * (base.params.dim * base.cfgSt.width / 8) ≤ base.params.memSize ∧
      NamesRows base (sp 5) .sp false 5 base.params.dim ∧ base.spByte (5 + 0) 0 = none ∧
      NamesRows base (acc 1) .acc false 1 base.params.dim ∧ base.accElem (1 + 0) 1 = none := by decide +kernel
theorem witness_AccumulatorRoundTripKeepsBytes :
    base.cfgLd.valid = true ∧ base.cfgSt.valid = true ∧ base.cfgSt.width = base.cfgLd.width ∧ ConfigLegal base ∧
      base.cfgQ.valid = true ∧ base.cfgQ.shift = 0#6 ∧ base.cfgQ.relu = false ∧
      NamesRows base (acc 2) .acc false 2 base.params.dim ∧
      (62#64).toNat + base.params.dim * (base.params.dim * base.cfgLd.width / 8) ≤ base.params.memSize ∧
      (0#64).toNat + base.params.dim * (base.params.dim * base.cfgLd.width / 8) ≤ base.params.memSize := by decide +kernel

theorem holdsTile_base : HoldsTile base 6 base.cfgEx.width tile :=
  cells (P := fun i j => spField base (6 + i) base.cfgEx.width j = some (tile i j)) (by decide +kernel)

theorem witness_PreloadCapturesWeight :
    idle.cfgEx.valid = true ∧ ConfigLegal idle ∧ NamesRows idle (sp 6) .sp false 6 idle.params.dim ∧
      PreloadDestOk idle (LocalOperand.spPlus 6).arg ∧ PreloadDestOk idle (acc 2) ∧ PreloadDestOk idle dash ∧
      idle.destValid = false ∧ HoldsTile idle 6 idle.cfgEx.width tile :=
  ⟨by decide +kernel, by decide +kernel, by decide +kernel, .inr ⟨.sp, true, 6, by decide +kernel⟩,
    .inr ⟨.acc, false, 2, by decide +kernel⟩, .inl (by decide +kernel), rfl, holdsTile_base⟩
theorem witness_PreloadZerosSetsDestination :
    dash.extractLsb' 0 32 = 0xFFFFFFFF#32 ∧ PreloadDestOk idle (accPlus 2) ∧ idle.destValid = false :=
  ⟨by decide +kernel, .inr ⟨.acc, true, 2, by decide +kernel⟩, rfl⟩
/-- The weight address; the destination address; the sequencing and the weight data. -/
theorem witness_PreloadFaultsInOrder :
    (laOf (sp 6) ≠ sentinel ∧ ({ base with cfgEx := { w4 with valid := false } } : State).cfgEx.valid = false ∧
      base.cfgEx.valid = true ∧ ¬ LegalAddress (acc 0) [(.sp, false)] ∧ LegalAddress (sp 7) [(.sp, false)] ∧
      ¬ RowsInRange base (sp 7) base.params.dim) ∧
    (laOf dash = sentinel ∧ LegalAddress (sp 6) [(.sp, false)] ∧ RowsInRange base (sp 6) base.params.dim ∧
      ¬ LegalAddress (0x20000000#64) [(.sp, false), (.sp, true), (.acc, false), (.acc, true)] ∧
      laOf (0x20000000#64) ≠ sentinel ∧ LegalAddress (acc 3) [(.sp, false), (.sp, true), (.acc, false), (.acc, true)] ∧
      ¬ RowsInRange base (acc 3) base.params.dim) ∧
    (base.destValid = true ∧ PreloadDestOk base dash) ∧
    (NamesRows idle (sp 5) .sp false 5 idle.params.dim ∧ idle.destValid = false ∧ idle.spByte (5 + 0) 0 = none) ∧
    PreloadDestOk idle dash :=
  have noOutput : ∀ s, PreloadDestOk s dash := fun _ => .inl (by decide)
  ⟨by decide +kernel, by decide +kernel, ⟨rfl, noOutput _⟩, by decide +kernel, noOutput _⟩

theorem ready_base : ComputeReady base (sp 6) (sp 6) tile tile :=
  ⟨by decide +kernel, by decide +kernel, by decide +kernel, by decide +kernel, ⟨6, by decide +kernel, holdsTile_base⟩,
    .inr ⟨6, by decide +kernel, holdsTile_base⟩, rfl⟩

/-- The accumulating destination the last two ACC rows, their last element 254. -/
def accumulating : State := { base with dest := 0xC0000002#32, acc := [((2, 0), 1), ((2, 1), 2), ((3, 0), 3), ((3, 1), 254)] }

theorem witness_ComputePreWideUpdatesAccumulator :
    ComputeReady accumulating (sp 6) dash tile (fun _ _ => 0) ∧ accumulating.pendwValid = true ∧
      accumulating.cfgQ.policy = .wide ∧ DestNames accumulating .acc true 2 ∧
      (∀ i j, i < 2 → j < 2 → accumulating.accElem (2 + i) j = some (tileAt [[1, 2], [3, 254]] i j)) ∧
      ∀ i j, i < 2 → j < 2 → inAcc accumulating.params
        (tileAt [[1, 2], [3, 254]] i j + stepProduct 2 tile (tileAt accumulating.pendw) (fun _ _ => 0) i j) = true := by
  refine ⟨⟨by decide +kernel, by decide +kernel, by decide +kernel, by decide +kernel,
    ⟨6, by decide +kernel, holdsTile_base⟩, .inl ⟨by decide +kernel, rfl⟩, rfl⟩, rfl, rfl, by decide +kernel,
    cells (by decide +kernel), ?_⟩
  simp only [stepProduct, Finset.sum_range_succ, Finset.sum_range_zero]
  exact cells (by decide +kernel)

theorem witness_ComputeAccWideUpdatesAccumulator :
    let s : State := { resident with wreg := [[1, 0], [0, 1]] }
    ComputeReady s (sp 6) (sp 6) tile tile ∧ s.wregValid = true ∧ s.pendwValid = false ∧ s.cfgQ.policy = .wide ∧
      DestNames s .acc false 2 ∧ ∀ i j, i < 2 → j < 2 →
        inAcc s.params ((0 : Int) + stepProduct 2 tile (tileAt s.wreg) tile i j) = true := by
  refine ⟨⟨by decide +kernel, by decide +kernel, by decide +kernel, by decide +kernel,
    ⟨6, by decide +kernel, holdsTile_base⟩, .inr ⟨6, by decide +kernel, holdsTile_base⟩, rfl⟩, rfl, rfl, rfl,
    by decide +kernel, ?_⟩
  simp only [stepProduct, Finset.sum_range_succ, Finset.sum_range_zero]
  exact cells (by decide +kernel)

theorem witness_ComputePrePackedUpdatesScratchpad :
    ComputeReady packedBase (sp 6) (sp 6) tile tile ∧ packedBase.pendwValid = true ∧ packedBase.cfgQ.policy = .packed ∧
      DestNames packedBase .sp true 6 ∧ HoldsTile packedBase 6 packedBase.cfgSt.width tile :=
  ⟨⟨by decide +kernel, by decide +kernel, by decide +kernel, by decide +kernel, ⟨6, by decide +kernel, holdsTile_base⟩,
    .inr ⟨6, by decide +kernel, holdsTile_base⟩, rfl⟩, rfl, rfl, by decide +kernel, holdsTile_base⟩

theorem witness_ComputeAccPackedUpdatesScratchpad :
    let s : State := { packedBase with pendwValid := false, wregValid := true, dest := 0#32 }
    ComputeReady s (sp 6) dash tile (fun _ _ => 0) ∧ s.wregValid = true ∧ s.pendwValid = false ∧ s.cfgQ.policy = .packed ∧
      DestNames s .sp false 0 :=
  ⟨⟨by decide +kernel, by decide +kernel, by decide +kernel, by decide +kernel, ⟨6, by decide +kernel, holdsTile_base⟩,
    .inl ⟨by decide +kernel, rfl⟩, rfl⟩, rfl, rfl, rfl, by decide +kernel⟩

theorem witness_ComputeWithoutOutputDiscards :
    (ComputeReady { base with dest := 0xFFFFFFFF#32 } (sp 6) (sp 6) tile tile ∧ base.pendwValid = true) ∧
      ComputeReady { resident with dest := 0xFFFFFFFF#32 } (sp 6) (sp 6) tile tile ∧ resident.wregValid = true ∧
      resident.pendwValid = false :=
  ⟨⟨ready_base, rfl⟩, ready_base, rfl, rfl⟩

/-- The configuration and the addresses; the sequencing. -/
theorem witness_ComputeFaultsInOrder :
    (let s : State := { packedBase with cfgSt := { w4 with valid := false } };
      s.cfgQ.policy = .packed ∧ s.cfgSt.valid = false) ∧
    (base.cfgEx.valid = true ∧ base.cfgQ.valid = true ∧ (base.cfgQ.policy = .packed → base.cfgSt.valid = true)) ∧
    (¬ LegalAddress dash [(.sp, false)] ∧ LegalAddress (sp 7) [(.sp, false)] ∧ ¬ RowsInRange base (sp 7) base.params.dim ∧
      LegalAddress (sp 6) [(.sp, false)] ∧ RowsInRange base (sp 6) base.params.dim ∧ laOf (acc 0) ≠ sentinel ∧
      ¬ LegalAddress (acc 0) [(.sp, false)] ∧ laOf dash = sentinel) ∧
    (idle.destValid = false ∧ base.destValid = true ∧ base.pendwValid = true ∧ base.wregValid = false ∧
      resident.destValid = true ∧ resident.pendwValid = false ∧ resident.wregValid = true ∧
      ({ base with wregValid := true } : State).pendwValid = true) := by
  refine ⟨⟨rfl, rfl⟩, ?_⟩
  decide +kernel

/-- The destination's address: reserved bit 1, the wrong space, one row too many. -/
theorem witness_ComputeFaultsInOrder_dest :
    decodeLa 0xA0000000#32 = some ⟨.acc, false, true, 0⟩ ∧
    (decodeLa 0#32 = some ⟨.sp, false, false, 0⟩ ∧ (Space.sp, false) ∉ [(Space.acc, false), (.acc, true)]) ∧
    (decodeLa 0xC0000003#32 = some ⟨.acc, true, false, 3⟩ ∧ (Space.acc, true) ∈ [(Space.acc, false), (.acc, true)] ∧
      rowsOf base.params .acc < 3 + base.params.dim) := by decide +kernel

/-- An undef byte of A or D in SP row 5, and of an accumulated PACKED destination in SP row 0. -/
theorem witness_ComputeFaultsInOrder_undef :
    (NamesRows base (sp 5) .sp false 5 base.params.dim ∧ base.spByte (5 + 0) 0 = none) ∧
    (let s : State := { packedBase with dest := 0x40000000#32 };
      ComputeReady s (sp 6) dash tile (fun _ _ => 0) ∧ DestNames s .sp true 0 ∧ s.spByte (0 + 1) 0 = none) :=
  ⟨by decide +kernel, ⟨by decide +kernel, by decide +kernel, by decide +kernel, by decide +kernel,
    ⟨6, by decide +kernel, holdsTile_base⟩, .inl ⟨by decide +kernel, rfl⟩, rfl⟩, by decide +kernel⟩

/-- Under WIDE the last element fails: -256 plus -1 is out of range in the first state, undef in the second. -/
theorem witness_ComputeFaultsInOrder_wide :
    let s : State := { accumulating with acc := [((2, 0), 1), ((2, 1), 2), ((3, 0), 3), ((3, 1), -256)] }
    let u : State := { s with acc := [((2, 0), 1), ((2, 1), 2), ((3, 0), 3)] }
    let sum := fun i j cur => cur + stepProduct 2 tile (tileAt s.pendw) (fun _ _ => 0) i j
    ComputeReady s (sp 6) dash tile (fun _ _ => 0) ∧ DestNames s .acc true 2 ∧
      (∀ i < 2, ∀ j < 2, i + j < 2 → u.accElem (2 + i) j = s.accElem (2 + i) j ∧
        (s.accElem (2 + i) j).any (fun cur => inAcc s.params (sum i j cur)) = true) ∧
      s.accElem (2 + 1) 1 = some (-256) ∧ inAcc s.params (sum 1 1 (-256)) = false ∧ u.accElem (2 + 1) 1 = none := by
  refine ⟨⟨by decide +kernel, by decide +kernel, by decide +kernel, by decide +kernel,
    ⟨6, by decide +kernel, holdsTile_base⟩, .inl ⟨by decide +kernel, rfl⟩, rfl⟩, by decide +kernel, ?_⟩
  simp only [stepProduct, Finset.sum_range_succ, Finset.sum_range_zero]
  decide +kernel

theorem witness_PackWritesPackedRow :
    (2#16).toNat ≤ base.params.dim ∧ NamesRows base (acc 3) .acc false 3 1 ∧ NamesRows base (sp 7) .sp false 7 1 ∧
      ∀ j < 2, base.accElem 3 j = some (if j = 0 then 3 else 255) := by decide +kernel
theorem witness_UnpackWritesElements :
    (2#16).toNat ≤ base.params.dim ∧ NamesRows base (sp 7) .sp false 7 1 ∧ NamesRows base (accPlus 3) .acc true 3 1 ∧
      ∀ j < 2, spField base 7 (2 ^ (2#2).toNat) j = some (if j = 0 then -2 else -1) ∧
        base.accElem 3 j = some (if j = 0 then 3 else 255) ∧
        inAcc base.params ((if j = 0 then 3 else 255) + (if j = 0 then -2 else -1)) = true := by decide +kernel
theorem witness_PackThenUnpackClamps :
    (2#16).toNat ≤ base.params.dim ∧ NamesRows base (acc 3) .acc false 3 1 ∧ NamesRows base (sp 7) .sp false 7 1 ∧
      NamesRows base (acc 0) .acc false 0 1 ∧ ∀ j < 2, base.accElem 3 j = some (if j = 0 then 3 else 255) := by decide +kernel
/-- The count; PACK's addresses; UNPACK's addresses; the data. -/
theorem witness_PackUnpackFaultsInOrder :
    (base.params.dim < (3#16).toNat ∧ (2#16).toNat ≤ base.params.dim) ∧
    (¬ LegalAddress (accPlus 0) [(.acc, false)] ∧ LegalAddress (acc 4) [(.acc, false)] ∧ ¬ RowsInRange base (acc 4) 1 ∧
      LegalAddress (acc 3) [(.acc, false)] ∧ RowsInRange base (acc 3) 1) ∧
    (¬ LegalAddress (acc 0) [(.sp, false)] ∧ LegalAddress (sp 8) [(.sp, false)] ∧ ¬ RowsInRange base (sp 8) 1 ∧
      LegalAddress (sp 7) [(.sp, false)] ∧ RowsInRange base (sp 7) 1 ∧ ¬ LegalAddress (sp 0) [(.acc, false), (.acc, true)] ∧
      LegalAddress (accPlus 4) [(.acc, false), (.acc, true)] ∧ ¬ RowsInRange base (accPlus 4) 1) ∧
    (NamesRows base (acc 0) .acc false 0 1 ∧ NamesRows base (sp 7) .sp false 7 1 ∧ 1 < (2#16).toNat ∧
      base.accElem 0 1 = none ∧ NamesRows base (sp 0) .sp false 0 1 ∧ NamesRows base (acc 3) .acc false 3 1 ∧
      0 < ((2#16).toNat * 2 ^ (2#2).toNat + 7) / 8 ∧ base.spByte 0 0 = none) :=
  ⟨by decide +kernel, by decide +kernel, by decide +kernel, by decide +kernel⟩

/-- An accumulating UNPACK of SP row 6, fields 1 and 2: 255 + 2 is out of range in the first state, undef in the second. -/
theorem witness_PackUnpackFaultsInOrder_accumulate :
    let u : State := { base with acc := [((3, 0), 3)] }
    NamesRows base (sp 6) .sp false 6 1 ∧ NamesRows base (accPlus 3) .acc true 3 1 ∧
      (∀ j < 2, spField base 6 (2 ^ (2#2).toNat) j = some (j + 1)) ∧
      base.accElem 3 0 = some 3 ∧ u.accElem 3 0 = some 3 ∧ inAcc base.params (3 + 1) = true ∧
      base.accElem 3 1 = some 255 ∧ inAcc base.params (255 + 2) = false ∧ u.accElem 3 1 = none := by decide +kernel

theorem witness_CommandsWriteOnlyTheirState :
    base.halted = false ∧ (stateOf (exec (.mvin 62#64 (acc 2)) base)).any (fun t => !t.halted) = true := by decide +kernel
theorem witness_ComputesConsumePreloads :
    base.halted = false ∧ (stateOf (exec (.computePre (sp 6) dash) base)).any (fun t => !t.halted) = true ∧
      (stateOf (exec (.computeAcc (sp 6) dash) resident)).any (fun t => !t.halted) = true ∧
      (stateOf (exec (.preload (sp 6) (acc 2)) idle)).any (fun t => !t.halted) = true := by decide +kernel

theorem witness_StepRunsDecodedInstruction :
    let p : Packet := ⟨0x10#32, 62#64, 6#64⟩
    let s : State := { base with queue := [p] }
    s.halted = false ∧ s.queue = p :: [] ∧ decode p = .ok (.mvin 62#64 6#64) ∧ s.events = [] ∧
      ({ s with events := [.block] } : State).events = .block :: [] := by decide +kernel

/-- An illegal packet at the head of Q: the block step halts. -/
theorem witness_FaultsArePrecise :
    let s : State := { base with queue := [⟨0x12#32, 1#64, 2#64⟩] }
    s.halted = false ∧ s.queue = ⟨0x12#32, 1#64, 2#64⟩ :: [] ∧ ∃ t, blockStep s = .next t ∧ t.halted = true :=
  ⟨rfl, rfl, _, rfl, rfl⟩

/-- A halted block, the host reading STATUS, and resetting. -/
theorem witness_OnlyResetClearsTheFaultRecord :
    let s : State := { base with halted := true, cause := .uninitRead, events := [.host .readStatus] }
    let r : State := { s with events := [.host .reset] }
    s.halted = true ∧ (∃ t, step s = .next t) ∧ r.halted = true ∧ ∃ t, step r = .next t :=
  ⟨rfl, ⟨_, rfl⟩, rfl, _, rfl⟩

/-- A step that runs a CFGACC, one that runs a COMPUTE.PRE, one that resets. -/
theorem witness_ConfigurationLastsUntilChanged :
    (∃ t, step { base with queue := [⟨0x4202#32, 0#64, 0#64⟩] } = .next t) ∧
      ∃ t, step { base with events := [.host .reset] } = .next t :=
  ⟨⟨_, rfl⟩, _, rfl⟩
theorem witness_ResidentWeightLastsUntilComputePre :
    (stateOf (step { base with queue := [⟨0x21#32, sp 6, dash⟩] })).map (fun t => (t.wreg, t.wregValid))
      = some (base.pendw, true) := by decide +kernel

theorem witness_HostReadsFaultRegisters :
    ∀ a ∈ [HostAction.readStatus, .readFarg1, .readFarg2],
      ({ base with events := [.host a] } : State).hostWait = false ∧
        ({ base with events := [.host a] } : State).events = .host a :: [] := fun _ _ => ⟨rfl, rfl⟩

/-- One free place in Q, none, and a halted block. -/
theorem witness_PushAppendsWaitsOrIsDiscarded :
    let s : State := { base with events := [.host (.push fencePacket)], queue := [fencePacket] }
    s.events = .host (.push fencePacket) :: [] ∧ s.hostWait = false ∧ s.halted = false ∧ s.queue.length < s.params.qdepth ∧
      ({ s with queue := [fencePacket, fencePacket] } : State).params.qdepth ≤ [fencePacket, fencePacket].length ∧
      ({ s with halted := true } : State).halted = true := by decide +kernel

theorem witness_HostMemoryAccess :
    base.hostWait = false ∧ (63#64).toNat < base.params.memSize ∧ base.params.memSize ≤ (64#64).toNat ∧
      ({ base with events := [.host (.readMem 63#64)] } : State).events = .host (.readMem 63#64) :: [] ∧
      ({ base with events := [.host (.writeMem 63#64 1#8)] } : State).events = .host (.writeMem 63#64 1#8) :: [] := by decide

theorem witness_FenceWaitsForTheQueue :
    let s : State := { base with events := [.host .fence], queue := [fencePacket] }
    let w : State := { base with events := [.host .readStatus], queue := [fencePacket], hostWait := true }
    (s.events = .host .fence :: [] ∧ s.hostWait = false ∧ s.halted = false ∧ s.queue.length < s.params.qdepth) ∧
      (w.events = .host .readStatus :: [] ∧ HostAction.readStatus ≠ .reset ∧ w.hostWait = true ∧ w.halted = false ∧ w.queue ≠ []) ∧
      (({ w with queue := [] } : State).hostWait = true ∧ ({ w with queue := [] } : State).queue = []) ∧
      ({ w with halted := true } : State).halted = true ∧
      s.params.qdepth ≤ ({ s with queue := [fencePacket, fencePacket] } : State).queue.length ∧
      ({ s with halted := true } : State).hostWait = false := by decide +kernel
theorem witness_FenceCompletesWithinTheQueue : ({ base with hostWait := true } : State).hostWait = true := rfl

/-- An MVIN with its footprint outstanding, and a host write of the byte just past it. -/
theorem witness_FencedHostWriteCommutesWithBlock :
    let s : State := { base with queue := [⟨0x10#32, 59#64, 6#64⟩], outstanding := [⟨59, 4⟩] }
    QueueOutstanding s ∧ ConfigLegal s ∧ (∀ f ∈ s.outstanding, ¬ (f.base ≤ 63 ∧ 63 < f.base + f.size)) ∧
      ∃ t, blockStep s = .next t := by
  refine ⟨?_, by decide +kernel, by decide, _, rfl⟩
  intro _ p hp f hf
  simp only [List.mem_singleton] at hp
  subst hp
  have hf' : some (⟨59, 4⟩ : Footprint) = some f := hf
  simpa [eq_comm] using hf'

theorem witness_ResetLeavesTheTable :
    let s : State := { base with events := [.host .reset], hostWait := true, queue := [fencePacket] }
    s.events = .host .reset :: [] ∧ s.fenceDone = false := by decide +kernel

/-! #### The invariants, at a state with everything in use -/

theorem witness_StepKeepsStorageCanonical : StorageCanonical base ∧ ∃ t, step base = .next t :=
  ⟨⟨by decide +kernel, by decide +kernel, by decide +kernel, by decide +kernel⟩, _, rfl⟩
theorem witness_StepKeepsAccumulatorInRange :
    base.params.Valid ∧ AccInRange base ∧ ∃ t, step base = .next t := by
  refine ⟨by decide +kernel, ?_, _, rfl⟩
  have h : ∀ c ∈ base.acc, inAcc base.params c.2 = true := by decide +kernel
  have hl : ∀ (l : CellStore Int) k v, lookupKey k l = some v → (k, v) ∈ l := by
    intro l
    induction l with
    | nil => simp [lookupKey]
    | cons c l ih =>
      intro k v hv
      rw [lookupKey] at hv
      by_cases hk : c.1 = k
      · rw [if_pos hk, Option.some.injEq] at hv
        rw [← hk, ← hv]; exact List.mem_cons_self
      · rw [if_neg hk] at hv
        exact List.mem_cons_of_mem _ (ih k v hv)
  intro r j v hv
  exact h _ (hl _ _ _ hv)
theorem witness_StepKeepsWeightsInRange :
    WeightsInRange { base with wreg := [[-128, 127], [0, 1]] } ∧ ∃ t, step { base with wreg := [[-128, 127], [0, 1]] } = .next t := by
  have key : ∀ t : Tile, t.length = 2 → (∀ row ∈ t, row.length = 2 ∧ ∀ x ∈ row, -128 ≤ x ∧ x ≤ 127) → WeightTile small t := by
    intro t hl h
    refine ⟨hl, fun row hr => (h row hr).1, fun i j => ?_⟩
    by_cases hi : i < t.length
    · by_cases hj : j < t[i].length
      · have := (h _ (List.getElem_mem hi)).2 _ (List.getElem_mem hj)
        simpa [tileAt, List.getD_eq_getElem?_getD, hi, hj] using this
      · simp [tileAt, List.getD_eq_getElem?_getD, hi, hj]
    · simp [tileAt, List.getD_eq_getElem?_getD, hi]
  exact ⟨⟨key _ rfl (by decide +kernel), key _ rfl (by decide +kernel)⟩, _, rfl⟩
theorem witness_StepKeepsConfigLegal : ConfigLegal base ∧ ∃ t, step base = .next t := ⟨by decide +kernel, _, rfl⟩
theorem witness_StepKeepsSequencing :
    WeightHasDestination base ∧ base.pendwValid = true ∧ DestinationLegal base ∧ ∃ t, step base = .next t :=
  ⟨by decide +kernel, rfl, by decide +kernel, _, rfl⟩
theorem witness_StepKeepsFaultRecord :
    FaultRecorded base ∧ FaultRecorded { base with halted := true, cause := .accOverflow, fcmd := 0x10#32 } ∧
      ∃ t, step base = .next t := ⟨by decide +kernel, by decide +kernel, _, rfl⟩
theorem witness_StepKeepsQueueOutstanding :
    let s : State := { base with queue := [fencePacket, fencePacket] }
    QueueBounded s ∧ QueueOutstanding s ∧ ∃ t, step s = .next t := by
  refine ⟨by decide +kernel, fun _ p hp f hf => ?_, _, rfl⟩
  have : p = fencePacket := by simpa using hp
  subst this
  have hf' : (none : Option Footprint) = some f := hf
  simp at hf'

end Sys2Proof.Tests
end

section
/-! Which fields a step's updates leave alone, and which a completed command can write: the layer the invariants of
Safety.lean rest on (10_state R39). -/

namespace Sys2Proof.Machine

/-! ### The parts of the state outside the data -/

/-- The storage, registers and parameters of `s`, with the fault record, Q, the host's state, the turns to come and the
replies of `c`. -/
def State.withControl (s c : State) : State :=
  { s with
    halted := c.halted, cause := c.cause, fcmd := c.fcmd, farg1 := c.farg1, farg2 := c.farg2, queue := c.queue,
    hostWait := c.hostWait, outstanding := c.outstanding, unfenced := c.unfenced, events := c.events, replies := c.replies }

/-- A push changes no storage and no register. -/
theorem withControl_pushPacket (s : State) (p : Packet) : s.withControl (s.pushPacket p) = s.pushPacket p := by
  rw [pushPacket_eq]; rfl

/-- Every step keeps a property of storage, registers and parameters that completed commands, host writes of MEM and
reset keep: all other updates are of other fields. -/
theorem step_keeps_of_data {P : State → Prop} (hdata : ∀ s c, P s → P (s.withControl c))
    (hrun : ∀ s t i, P s → runOf i s = .ok t → P t)
    (hmem : ∀ s a v, a < s.params.memSize → P s → P (s.setMem (s.mem.write a v)))
    (hreset : ∀ s, P s → P s.blockReset) {s t : State} (h : P s) (hs : step s = .next t) : P t :=
  step_keeps (fun s es => hdata s (s.setEvents es)) (fun s => hdata s s.completeFence)
    (fun s q => hdata s (s.setQueue q)) (fun s c p _ => hdata s (s.faultEntry c p)) hrun
    (fun s p hp => withControl_pushPacket s p ▸ hdata s (s.pushPacket p) hp) (fun s => hdata s s.startWait)
    (fun s b => hdata s (s.noteRace b)) (fun s v => hdata s (s.reply v)) hmem hreset h hs

/-- A completed command keeps the parameters. -/
theorem runOf_params {i : Instr} {s t : State} (h : runOf i s = .ok t) : t.params = s.params := by
  rw [runOf_frame h]

/-- Every step keeps the parameters (00_scope R5). -/
theorem step_params {s t : State} (h : step s = .next t) : t.params = s.params :=
  step_keeps_of_data (P := fun u => u.params = s.params) (fun _ _ hu => hu)
    (fun _ _ _ hu hr => (runOf_params hr).trans hu) (fun _ _ _ _ hu => hu) (fun _ hu => hu) rfl h

/-! ### What a completed command can write -/

/-- Bit 31 of an ARG word is the space its LA names (30_encoding R83). -/
theorem space_of_decodeLa {arg : ArgWord} {la : LocalAddr} (h : decodeLa (laOf arg) = some la) :
    la.space = if arg.getLsbD 31 then .acc else .sp := by
  by_cases hs : laOf arg = sentinel
  · simp [decodeLa, hs] at h
  · simp only [decodeLa, hs, if_false, Option.some.injEq] at h
    subst h
    simp [laOf]

/-- A completed `compute_body` writes the storage of the policy in effect alone (43_matmul R170). -/
theorem computeBody_writes {s t : State} {ar : Nat} {dla : LocalWord} {weight : Tile}
    (h : computeBody s ar dla weight = .ok t) :
    (t = { s with sp := t.sp } ∧ s.cfgQ.policy = .packed) ∨ (t = { s with acc := t.acc } ∧ s.cfgQ.policy = .wide) := by
  obtain ⟨dest, a, d, -, -, -, ⟨-, rfl⟩ | ⟨la, -, hp, hw⟩ | ⟨la, -, hp, hw⟩⟩ := computeBody_ok h
  · cases hp : t.cfgQ.policy with
    | wide => exact .inr ⟨rfl, rfl⟩
    | packed => exact .inl ⟨rfl, rfl⟩
  · obtain ⟨new, rfl, -⟩ := wideUpdate_ok hw
    exact .inr ⟨rfl, hp⟩
  · obtain ⟨out, rfl, -⟩ := packedUpdate_ok hw
    exact .inl ⟨rfl, hp⟩

/-- `t` is `s` but for the state that the command `i` writes: the write columns of 10_state R39. -/
def WritesOnly (i : Instr) (s t : State) : Prop :=
  match i with
  | .cfgprec role _ _ _ => t = { s with
      cfgLd := if role = .ld then t.cfgLd else s.cfgLd
      cfgEx := if role = .ex then t.cfgEx else s.cfgEx
      cfgSt := if role = .st then t.cfgSt else s.cfgSt }
  | .cfgacc _ _ _ _ _ => t = { s with cfgQ := t.cfgQ }
  | .mvin _ arg2 => (t = { s with sp := t.sp } ∧ arg2.getLsbD 31 = false) ∨
      (t = { s with acc := t.acc } ∧ arg2.getLsbD 31 = true)
  | .mvout _ _ => t = { s with mem := t.mem }
  | .preload _ _ => t = { s with pendw := t.pendw, pendwValid := t.pendwValid, dest := t.dest, destValid := true }
  | .computePre _ _ =>
      (t = { s with sp := t.sp, wreg := s.pendw, wregValid := true, pendwValid := false, destValid := false }
        ∧ s.cfgQ.policy = .packed) ∨
      (t = { s with acc := t.acc, wreg := s.pendw, wregValid := true, pendwValid := false, destValid := false }
        ∧ s.cfgQ.policy = .wide)
  | .computeAcc _ _ => (t = { s with sp := t.sp, destValid := false } ∧ s.cfgQ.policy = .packed) ∨
      (t = { s with acc := t.acc, destValid := false } ∧ s.cfgQ.policy = .wide)
  | .pack _ _ _ _ => t = { s with sp := t.sp }
  | .unpack _ _ _ _ => t = { s with acc := t.acc }
  | .fence _ _ => t = s
  | .flush _ _ => t = s

/-- A completed command writes its own state alone (10_state R39). -/
theorem runOf_writesOnly {i : Instr} {s t : State} (h : runOf i s = .ok t) : WritesOnly i s t := by
  cases i with
  | cfgprec role log2w arg1 arg2 =>
    obtain ⟨-, -, -, -, rfl⟩ := runCfgprec_ok.1 h
    cases role <;> rfl
  | cfgacc shift relu policy arg1 arg2 => cases h; rfl
  | mvin arg1 arg2 =>
    obtain ⟨-, la, hla, -, hw⟩ := runMvin_ok h
    have hspace := space_of_decodeLa (checkLa_ok.1 hla).1
    obtain ⟨hsp, rfl⟩ | ⟨hacc, new, -, rfl⟩ := hw
    · exact .inl ⟨rfl, by simpa [hsp] using hspace⟩
    · exact .inr ⟨rfl, by simpa [hacc] using hspace⟩
  | mvout arg1 arg2 => obtain ⟨-, la, -, -, -, rows, rfl, -⟩ := runMvout_ok h; rfl
  | preload arg1 arg2 => obtain ⟨-, -, ⟨-, rfl⟩ | ⟨r, w, -, -, rfl⟩⟩ := runPreload_ok h <;> rfl
  | computePre arg1 arg2 =>
    obtain ⟨ar, u, -, -, -, hb, rfl⟩ := runComputePre_ok h
    exact (computeBody_writes hb).imp (And.imp_left fun hu => by rw [hu]; rfl) (And.imp_left fun hu => by rw [hu]; rfl)
  | computeAcc arg1 arg2 =>
    obtain ⟨ar, u, -, -, -, -, hb, rfl⟩ := runComputeAcc_ok h
    exact (computeBody_writes hb).imp (And.imp_left fun hu => by rw [hu]; rfl) (And.imp_left fun hu => by rw [hu]; rfl)
  | pack k lw arg1 arg2 => obtain ⟨-, src, dst, v, -, -, -, rfl⟩ := runPack_ok h; rfl
  | unpack k lw arg1 arg2 => obtain ⟨-, src, dst, bytes, new, -, -, -, -, rfl⟩ := runUnpack_ok h; rfl
  | fence arg1 arg2 => cases h; rfl
  | flush arg1 arg2 => cases h; rfl

/-- A command that ends with the block running has completed (60_exceptions R226, R227). -/
theorem runOf_of_exec_running {i : Instr} {s t : State} (h : exec i s = .next t) (ht : t.halted = false) :
    runOf i s = .ok t := by
  obtain hr | ⟨c, -, rfl⟩ := exec_cases h
  · exact hr
  · simp at ht

/-- Settles O39: a command that does not halt has completed, so it wrote its own columns of R39 alone. -/
theorem commandsWriteOnlyTheirState : Obligations.CommandsWriteOnlyTheirState := by
  intro i s t _ he ht
  exact runOf_writesOnly (runOf_of_exec_running he ht)

/-- A completed command other than CFGPREC keeps the precision registers (42_config R162). -/
theorem runOf_precision {i : Instr} {s t : State} (h : runOf i s = .ok t) :
    (∃ role log2w a b, i = .cfgprec role log2w a b) ∨
      (t.cfgLd = s.cfgLd ∧ t.cfgEx = s.cfgEx ∧ t.cfgSt = s.cfgSt) := by
  have hw := runOf_writesOnly h
  cases i with
  | cfgprec role log2w a b => exact .inl ⟨role, log2w, a, b, rfl⟩
  | mvin | computePre | computeAcc =>
    obtain ⟨e, -⟩ | ⟨e, -⟩ := hw <;> rw [e] <;> exact .inr ⟨rfl, rfl, rfl⟩
  | cfgacc | mvout | preload | pack | unpack | fence | flush =>
    replace hw : t = _ := hw
    rw [hw]; exact .inr ⟨rfl, rfl, rfl⟩

/-- A completed command that changes a weight tile is a PRELOAD, which keeps WREG, or a COMPUTE.PRE, which keeps PENDW and
makes it resident (10_state R31, R33). -/
theorem runOf_weights {i : Instr} {s t : State} (h : runOf i s = .ok t) :
    (t.pendw = s.pendw ∧ t.wreg = s.wreg ∧ t.wregValid = s.wregValid) ∨
      (∃ a b, i = .preload a b ∧ t.wreg = s.wreg ∧ t.wregValid = s.wregValid) ∨
      (∃ a b, i = .computePre a b ∧ t.pendw = s.pendw ∧ t.wreg = s.pendw) := by
  have hw := runOf_writesOnly h
  cases i with
  | preload a b =>
    replace hw : t = _ := hw
    rw [hw]; exact .inr (.inl ⟨a, b, rfl, rfl, rfl⟩)
  | computePre a b =>
    obtain ⟨e, -⟩ | ⟨e, -⟩ := hw <;> rw [e] <;> exact .inr (.inr ⟨a, b, rfl, rfl, rfl⟩)
  | mvin | computeAcc =>
    obtain ⟨e, -⟩ | ⟨e, -⟩ := hw <;> rw [e] <;> exact .inl ⟨rfl, rfl, rfl⟩
  | cfgprec | cfgacc | mvout | pack | unpack | fence | flush =>
    replace hw : t = _ := hw
    rw [hw]; exact .inl ⟨rfl, rfl, rfl⟩

end Sys2Proof.Machine
end

section
/-! The invariants of Safety.lean: each holds after reset, and every step keeps it (10_state R24 to R39). -/

namespace Sys2Proof.Machine

/-! ### Canonical storage (O54) -/

/-- An address that passes `check_la` with one admitted space names rows of that space (30_encoding R85). -/
theorem checkLa_rows {p : Params} {la : LocalWord} {allowed : List (Space × Bool)} {n : Nat} {a : LocalAddr}
    (space : Space) (hall : ∀ x ∈ allowed, x.1 = space) (h : checkLa p la allowed n = .ok a) :
    a.row + n ≤ rowsOf p space := by
  obtain ⟨-, -, hmem, hrow⟩ := checkLa_ok.1 h
  rwa [← hall _ hmem]

/-- A checked DEST other than SENTINEL names DIM rows of the one space its policy admits (43_matmul R170). -/
theorem checkedDest_rows {s : State} {la : LocalAddr} (space : Space)
    (hall : ∀ x ∈ destSpaces s.cfgQ.policy, x.1 = space) (h : checkedDest s = .ok (some la)) :
    la.row + s.params.dim ≤ rowsOf s.params space := by
  obtain ⟨-, hnone⟩ | ⟨la', hsome, -, -, hspace, hrow⟩ := checkedDest_ok h
  · cases hnone
  · cases hsome
    rwa [← hall _ hspace]

/-- SP in canonical form (10_state R24). -/
theorem StorageCanonical.sp_wf {s : State} (h : StorageCanonical s) : s.sp.wf s.params.spRows s.params.dim := by
  obtain ⟨-, -, hsp, -⟩ := h
  exact hsp

/-- ACC in canonical form (10_state R25). -/
theorem StorageCanonical.acc_wf {s : State} (h : StorageCanonical s) : s.acc.wf s.params.accRows s.params.dim := by
  obtain ⟨-, -, -, hacc⟩ := h
  exact hacc

/-- A write of SP in canonical form keeps the storage canonical. -/
theorem StorageCanonical.setSp {s : State} (h : StorageCanonical s) {v : CellStore Byte}
    (hv : v.wf s.params.spRows s.params.dim) : StorageCanonical (s.setSp v) := by
  obtain ⟨hwf, hbound, -, hacc⟩ := h
  exact ⟨hwf, hbound, hv, hacc⟩

/-- A write of ACC in canonical form keeps the storage canonical. -/
theorem StorageCanonical.setAcc {s : State} (h : StorageCanonical s) {v : CellStore Int}
    (hv : v.wf s.params.accRows s.params.dim) : StorageCanonical (s.setAcc v) := by
  obtain ⟨hwf, hbound, hsp, -⟩ := h
  exact ⟨hwf, hbound, hsp, hv⟩

/-- A write of packed rows inside SP keeps the storage canonical. -/
theorem StorageCanonical.putSpRows {s : State} (h : StorageCanonical s) {r n m : Nat} (f : Nat → Nat → Byte)
    (hn : n ≤ s.params.dim) (hr : r + m ≤ s.params.spRows) : StorageCanonical (s.setSp (s.sp.putGrid r f n m)) :=
  h.setSp (CellStore.wf_putGrid h.sp_wf r f n m hn hr)

/-- A tile stored inside ACC keeps the storage canonical. -/
theorem StorageCanonical.storeAccTile {s : State} (h : StorageCanonical s) {r : Nat} (t : Tile)
    (hr : r + s.params.dim ≤ s.params.accRows) : StorageCanonical (storeAccTile s r t) :=
  h.setAcc (CellStore.wf_putGrid h.acc_wf r _ _ _ le_rfl hr)

/-- A tile stored inside MEM keeps the storage canonical. -/
theorem StorageCanonical.storeMemTile {s : State} (h : StorageCanonical s) {a n : Nat} (rows : List (List Byte))
    (ha : MemInRange s.params a (s.params.dim * n)) : StorageCanonical (storeMemTile s a n rows) := by
  obtain ⟨hwf, hbound, hsp, hacc⟩ := h
  exact ⟨Memory.wf_writeRange hwf _ _ _, Memory.bound_writeRange hbound _ _ _ ha, hsp, hacc⟩

/-- A completed `compute_body` keeps the storage canonical: DEST was checked against the policy's storage (43_matmul
R170). -/
theorem StorageCanonical.computeBody {s t : State} {ar : Nat} {dla : LocalWord} {weight : Tile}
    (h : StorageCanonical s) (hb : computeBody s ar dla weight = .ok t) : StorageCanonical t := by
  obtain ⟨dest, a, d, hd, -, -, hw⟩ := computeBody_ok hb
  obtain ⟨-, rfl⟩ | ⟨la, rfl, hp, hw⟩ | ⟨la, rfl, hp, hw⟩ := hw
  · exact h
  · obtain ⟨new, rfl, -⟩ := wideUpdate_ok hw
    exact h.storeAccTile new (checkedDest_rows .acc (by rw [hp]; decide) hd)
  · obtain ⟨out, rfl, -⟩ := packedUpdate_ok hw
    exact h.putSpRows _ (rowBytes_le _ s.cfgSt.width_le) (checkedDest_rows .sp (by rw [hp]; decide) hd)

/-- A completed command keeps the storage canonical: every row and MEM range it writes was checked (10_state R24, R25,
R28). -/
theorem runOf_storageCanonical {i : Instr} {s t : State} (h : StorageCanonical s) (hr : runOf i s = .ok t) :
    StorageCanonical t := by
  cases i with
  | mvin arg1 arg2 =>
    obtain ⟨-, la, hla, -, hw⟩ := runMvin_ok hr
    obtain ⟨-, -, -, hrow⟩ := checkLa_ok.1 hla
    obtain ⟨hs, rfl⟩ | ⟨hs, new, -, rfl⟩ := hw <;> rw [hs] at hrow
    · exact h.putSpRows _ (rowBytes_le _ s.cfgLd.width_le) hrow
    · exact h.storeAccTile new hrow
  | mvout arg1 arg2 =>
    obtain ⟨-, la, -, -, hrange, rows, rfl, -⟩ := runMvout_ok hr
    exact h.storeMemTile rows hrange
  | computePre arg1 arg2 =>
    obtain ⟨ar, u, -, -, -, hb, rfl⟩ := runComputePre_ok hr
    have hu : StorageCanonical u := h.computeBody hb
    exact hu
  | computeAcc arg1 arg2 =>
    obtain ⟨ar, u, -, -, -, -, hb, rfl⟩ := runComputeAcc_ok hr
    have hu : StorageCanonical u := h.computeBody hb
    exact hu
  | pack k lw arg1 arg2 =>
    obtain ⟨hk, src, dst, v, -, hdst, hv, rfl⟩ := runPack_ok hr
    have hlen : (packSeq (widthOfLw lw) v).length ≤ s.params.dim := by
      calc (packSeq (widthOfLw lw) v).length
          = packedLen v.length (widthOfLw lw) := packUpTo_length _ _ _
        _ ≤ v.length := packedLen_le _ (PrecisionReg.width_le ⟨true, lw, 0⟩)
        _ ≤ s.params.dim := (gather_ok.1 hv).1.trans_le hk
    exact h.setSp (CellStore.wf_putRow h.sp_wf (checkLa_rows .sp (by decide) hdst) _ _ hlen)
  | unpack k lw arg1 arg2 =>
    obtain ⟨hk, src, dst, bytes, new, -, hdst, -, -, rfl⟩ := runUnpack_ok hr
    exact h.setAcc (CellStore.wf_putRow h.acc_wf (checkLa_rows .acc (by decide) hdst) _ _ hk)
  | cfgprec | cfgacc | preload | fence | flush =>
    have hw : t = _ := runOf_writesOnly hr
    rw [hw]; exact h

/-- Settles O54: commands write checked ranges, the host writes a checked MEM byte, and reset empties SP and ACC. -/
theorem stepKeepsStorageCanonical : Obligations.StepKeepsStorageCanonical := by
  intro s t h hs
  refine ⟨step_params hs, step_keeps_of_data (fun _ _ hu => hu) (fun _ _ _ => runOf_storageCanonical) ?_ ?_ h hs⟩
  · rintro u a v ha ⟨hwf, hbound, hsp, hacc⟩
    exact ⟨Memory.wf_write hwf a v, Memory.bound_write hbound ha v, hsp, hacc⟩
  · rintro u ⟨hwf, hbound, -, -⟩
    exact ⟨hwf, hbound, ⟨.nil, by simp⟩, ⟨.nil, by simp⟩⟩

/-! ### Accumulator range (O55) -/

/-- A tile of elements in range, stored in ACC, leaves ACC in range. -/
theorem AccInRange.storeAccTile {s : State} (h : AccInRange s) {c : Nat} {t : Tile}
    (ht : ∀ i j, i < s.params.dim → j < s.params.dim → inAcc s.params (tileAt t i j) = true) :
    AccInRange (storeAccTile s c t) := by
  intro r j v hv
  rw [storeAccTile_accElem] at hv
  split_ifs at hv with hin
  · cases hv
    exact ht (r - c) j (by omega) hin.2.2
  · exact h r j v hv

/-- The element an MVIN or UNPACK stores is in range: the sum is checked, and a decoded element alone always fits
(41_arithmetic R131). -/
theorem inAcc_of_addResident {s : State} (hp : s.params.Valid) {accum : Bool} {r j : Nat} {v x : Int}
    (hv : -128 ≤ v ∧ v ≤ 127) (h : addResident s accum r j v = .ok x) : inAcc s.params x = true := by
  obtain ⟨-, rfl⟩ | ⟨-, cur, -, hin, rfl⟩ := addResident_ok.1 h
  · exact inAcc_of_byte hp hv.1 hv.2
  · exact hin

/-- Every value `unpack_seq` answers fits in eight signed bits (41_arithmetic R130). -/
theorem unpackSeq_range (lw : BitVec 2) (bytes : List Byte) (k j : Nat) :
    -128 ≤ (unpackSeq (widthOfLw lw) bytes k).getD j 0 ∧ (unpackSeq (widthOfLw lw) bytes k).getD j 0 ≤ 127 := by
  by_cases hj : j < k
  · simpa [unpackSeq, List.getD_eq_getElem?_getD, hj] using unpackSigned_range (widthOfLw_cases lw) _ _
  · simp [unpackSeq, List.getD_eq_getElem?_getD, hj]

/-- A completed `compute_body` keeps ACC in range: `wide_update` checks every sum it stores (41_arithmetic R134). -/
theorem AccInRange.computeBody {s t : State} {ar : Nat} {dla : LocalWord} {weight : Tile}
    (h : AccInRange s) (hb : computeBody s ar dla weight = .ok t) : AccInRange t := by
  obtain ⟨dest, a, d, -, -, -, ⟨-, rfl⟩ | ⟨la, -, -, hw⟩ | ⟨la, -, -, hw⟩⟩ := computeBody_ok hb
  · exact h
  · obtain ⟨new, rfl, hnew⟩ := wideUpdate_ok hw
    refine h.storeAccTile fun i j hi hj => ?_
    obtain ⟨cur, -, hin, hv⟩ := hnew i j hi hj
    rwa [hv]
  · obtain ⟨out, rfl, -⟩ := packedUpdate_ok hw
    exact h

/-- A completed command keeps ACC in range (41_arithmetic R131). -/
theorem runOf_accInRange {i : Instr} {s t : State} (hp : s.params.Valid) (h : AccInRange s) (hr : runOf i s = .ok t) :
    AccInRange t := by
  cases i with
  | mvin arg1 arg2 =>
    obtain ⟨-, la, -, -, ⟨-, rfl⟩ | ⟨-, new, hnew, rfl⟩⟩ := runMvin_ok hr
    · exact h
    · exact h.storeAccTile fun i j hi hj =>
        inAcc_of_addResident hp (unpackSigned_range s.cfgLd.width_cases _ _) (gatherGrid_tileAt hnew hi hj)
  | computePre arg1 arg2 =>
    obtain ⟨ar, u, -, -, -, hb, rfl⟩ := runComputePre_ok hr
    have hu : AccInRange u := h.computeBody hb
    exact hu
  | computeAcc arg1 arg2 =>
    obtain ⟨ar, u, -, -, -, -, hb, rfl⟩ := runComputeAcc_ok hr
    have hu : AccInRange u := h.computeBody hb
    exact hu
  | unpack k lw arg1 arg2 =>
    obtain ⟨-, src, dst, bytes, new, -, -, -, hnew, rfl⟩ := runUnpack_ok hr
    obtain ⟨hlen, helem⟩ := gather_ok.1 hnew
    intro r j v hv
    rw [State.accElem, State.setAcc_acc, CellStore.cell_putRow] at hv
    split_ifs at hv with hin
    · have hj : j < new.length := by omega
      cases hv
      have hx := inAcc_of_addResident hp (unpackSeq_range lw bytes k.toNat j) (helem j hj)
      simpa [List.getD_eq_getElem?_getD, hj] using hx
    · exact h r j v hv
  | cfgprec | cfgacc | mvout | preload | pack | fence | flush =>
    have hw : t = _ := runOf_writesOnly hr
    rw [hw]; exact h

/-- Settles O55: every element a command stores is checked or decoded from a byte, and reset undefines the others. -/
theorem stepKeepsAccumulatorInRange : Obligations.StepKeepsAccumulatorInRange := by
  intro s t hp h hs
  refine (step_keeps_of_data (P := fun u => u.params.Valid ∧ AccInRange u) (fun _ _ hu => hu) ?_ (fun _ _ _ _ hu => hu)
    ?_ ⟨hp, h⟩ hs).2
  · rintro u u' i ⟨hp, hu⟩ hr
    exact ⟨runOf_params hr ▸ hp, runOf_accInRange hp hu hr⟩
  · rintro u ⟨hp, -⟩
    exact ⟨hp, fun r j v hv => by simp [State.accElem, CellStore.cell, lookupKey] at hv⟩

/-! ### Weight tiles (O56) -/

/-- The tile that `sp_tile` reads at a precision register's width is a weight tile (40_codec R109, 41_arithmetic R130). -/
theorem weightTile_spTile {s : State} {r : Nat} {p : PrecisionReg} {t : Tile} (h : spTile s r p.width = .ok t) :
    WeightTile s.params t := by
  obtain ⟨hrows, hcols, -⟩ := spTile_ok h
  exact ⟨hrows, hcols, spTile_range p.width_cases h⟩

/-- The tile reset leaves is a weight tile. -/
theorem weightTile_resetTile (p : Params) : WeightTile p (resetTile p) := by
  refine ⟨by simp [resetTile], fun row hrow => by simp [List.eq_of_mem_replicate hrow], fun i j => ?_⟩
  have hz : tileAt (resetTile p) i j = 0 := by
    by_cases hi : i < p.dim <;> by_cases hj : j < p.dim <;>
      simp [tileAt, resetTile, List.getD_eq_getElem?_getD, hi, hj]
  simp [hz]

/-- A completed command keeps both weight tiles: PRELOAD reads a new PENDW from SP, COMPUTE.PRE makes PENDW resident
(43_matmul R171, R172). -/
theorem runOf_weightsInRange {i : Instr} {s t : State} (h : WeightsInRange s) (hr : runOf i s = .ok t) :
    WeightsInRange t := by
  obtain ⟨hpend, hres⟩ := h
  have hparams := runOf_params hr
  obtain ⟨hp, hw, -⟩ | ⟨a, b, rfl, -, -⟩ | ⟨a, b, rfl, hp, hw⟩ := runOf_weights hr
  · rw [WeightsInRange, hparams, hp, hw]; exact ⟨hpend, hres⟩
  · obtain ⟨-, -, ⟨-, rfl⟩ | ⟨r, w, -, hw, rfl⟩⟩ := runPreload_ok hr
    · exact ⟨hpend, hres⟩
    · exact ⟨weightTile_spTile hw, hres⟩
  · rw [WeightsInRange, hparams, hp, hw]; exact ⟨hpend, hpend⟩

/-- Settles O56: weight tiles come from SP, from each other and from reset alone. -/
theorem stepKeepsWeightsInRange : Obligations.StepKeepsWeightsInRange :=
  fun _ _ h hs => step_keeps_of_data (fun _ _ hu => hu) (fun _ _ _ => runOf_weightsInRange) (fun _ _ _ _ hu => hu)
    (fun u _ => ⟨weightTile_resetTile u.params, weightTile_resetTile u.params⟩) h hs

/-- A block step keeps the resident weight, or its command was a COMPUTE.PRE, which left Q and made PENDW resident
(43_matmul R172). -/
theorem blockStep_resident {s t : State} (h : blockStep s = .next t) :
    (t.wreg = s.wreg ∧ t.wregValid = s.wregValid) ∨
      ∃ p rest a b, s.queue = p :: rest ∧ t.queue = rest ∧ decode p = .ok (.computePre a b) ∧ t.wreg = s.pendw := by
  obtain ⟨-, rfl⟩ | ⟨p, rest, -, hq, ⟨e, -, rfl⟩ | ⟨i, hd, hr⟩ | ⟨i, c, -, -, -, rfl⟩⟩ := blockStep_cases h
  · exact .inl ⟨rfl, rfl⟩
  · exact .inl ⟨rfl, rfl⟩
  · have hqueue : t.queue = rest := by rw [runOf_frame hr]; rfl
    obtain ⟨-, hw⟩ | ⟨a, b, -, hw⟩ | ⟨a, b, rfl, -, hw⟩ := runOf_weights hr
    · exact .inl hw
    · exact .inl hw
    · exact .inr ⟨p, rest, a, b, hq, hqueue, hd, hw⟩
  · exact .inl ⟨rfl, rfl⟩

/-- A host action other than reset keeps the resident weight. -/
theorem takeAction_resident {a : HostAction} {s t : State} (h : takeAction a s = .next t) :
    (t.wreg = s.wreg ∧ t.wregValid = s.wregValid) ∨ a = .reset := by
  have hpush : ∀ p, (s.pushPacket p).wreg = s.wreg ∧ (s.pushPacket p).wregValid = s.wregValid := fun p => by
    rw [pushPacket_eq]; exact ⟨rfl, rfl⟩
  obtain ⟨p, -, rfl⟩ | ⟨p, -, -, rfl⟩ | ⟨p, v, -, -, rfl⟩ | ⟨-, rfl⟩ | ⟨-, rfl⟩ | ⟨-, rfl⟩ | ⟨-, rfl⟩ | ⟨rfl, -⟩ :=
    takeAction_cases h
  · exact .inl (hpush p)
  · exact .inl ⟨rfl, rfl⟩
  · exact .inl ⟨rfl, rfl⟩
  · exact .inl ⟨rfl, rfl⟩
  · exact .inl ⟨rfl, rfl⟩
  · exact .inl ⟨rfl, rfl⟩
  · exact .inl (hpush fencePacket)
  · exact .inr rfl

/-- Settles O45: the only command that writes WREG is COMPUTE.PRE, and the only host action that does is reset. -/
theorem residentWeightLastsUntilComputePre : Obligations.ResidentWeightLastsUntilComputePre := by
  intro s t hs
  obtain ⟨-, rfl⟩ | ⟨-, ⟨-, hb⟩ | ⟨rest, -, hb⟩ | ⟨a, rest, -, -, hb⟩ | ⟨a, rest, he, -, ha⟩⟩ := step_cases hs
  · exact .inl ⟨rfl, rfl⟩
  · exact (blockStep_resident hb).imp_right .inl
  · exact (blockStep_resident hb).imp_right .inl
  · exact (blockStep_resident hb).imp_right .inl
  · obtain hkeep | rfl := takeAction_resident ha
    · exact .inl hkeep
    · exact .inr (.inr ⟨rest, he⟩)

/-! ### Precision registers (O57) -/

/-- The value CFGPREC writes is legal: R160 checks its row width, and LOG2W ≤ 3 is kept whole in two bits. -/
theorem legalPrecision_of_runCfgprec {role : Role} {log2w : BitVec 3} {arg1 : ArgWord} {s t : State}
    (h : runCfgprec role log2w arg1 s = .ok t) :
    LegalPrecision s.params { valid := true, log2w := log2w.setWidth 2, rowWidth := rowWidthOf arg1 } := by
  obtain ⟨-, hlog, hrow, hbytes, -⟩ := runCfgprec_ok.1 h
  have hwidth : (log2w.setWidth 2).toNat = log2w.toNat := by
    rw [BitVec.toNat_setWidth]; omega
  exact fun _ => ⟨hrow, by rwa [PrecisionReg.width, hwidth]⟩

/-- A completed command keeps the precision registers legal (42_config R160, R162). -/
theorem runOf_configLegal {i : Instr} {s t : State} (h : ConfigLegal s) (hr : runOf i s = .ok t) : ConfigLegal t := by
  obtain ⟨role, log2w, a, b, rfl⟩ | ⟨hld, hex, hst⟩ := runOf_precision hr
  · have hnew := legalPrecision_of_runCfgprec hr
    obtain ⟨hld, hex, hst⟩ := h
    obtain ⟨-, -, -, -, rfl⟩ := runCfgprec_ok.1 hr
    cases role with
    | ld => exact ⟨hnew, hex, hst⟩
    | ex => exact ⟨hld, hnew, hst⟩
    | st => exact ⟨hld, hex, hnew⟩
    | reserved => exact ⟨hld, hex, hst⟩
  · rw [ConfigLegal, runOf_params hr, hld, hex, hst]; exact h

/-- Settles O57: CFGPREC writes legal values, and reset clears the valid bits. -/
theorem stepKeepsConfigLegal : Obligations.StepKeepsConfigLegal := by
  intro s t h hs
  refine step_keeps_of_data (fun _ _ hu => hu) (fun _ _ _ => runOf_configLegal) (fun _ _ _ _ hu => hu) (fun u _ => ?_) h hs
  have hclear : LegalPrecision u.params resetPrecision := fun hv => by simp [resetPrecision] at hv
  exact ⟨hclear, hclear, hclear⟩

/-! ### The fault record (O59) -/

/-- A push keeps the fault record. -/
theorem FaultRecorded.pushPacket {s : State} (h : FaultRecorded s) (p : Packet) : FaultRecorded (s.pushPacket p) := by
  rw [pushPacket_eq]; exact h

/-- Settles O59: a command completes with the record as it was, a fault entry names its cause, reset clears it. -/
theorem stepKeepsFaultRecord : Obligations.StepKeepsFaultRecord := by
  intro s t h hs
  refine step_keeps (fun _ _ hu => hu) (fun _ hu => hu) (fun _ _ hu => hu) ?_ ?_ (fun _ p hu => hu.pushPacket p)
    (fun _ hu => hu) (fun _ _ hu => hu) (fun _ _ hu => hu) (fun _ _ _ _ hu => hu) ?_ h hs
  · intro u c p hc _
    exact ⟨fun hrun => by simp at hrun, fun _ => hc⟩
  · intro u u' i hu hr
    rw [runOf_frame hr]; exact hu
  · intro u _
    exact ⟨fun _ => ⟨rfl, rfl, rfl, rfl⟩, fun hhalt => by simp at hhalt⟩

/-! ### The queue and the outstanding footprints (O60) -/

/-- A block step drops at most the head of Q, keeps the parameters and OUTSTANDING, and never restarts a halted block
(60_exceptions R228, R241). -/
theorem blockStep_queue {s t : State} (h : blockStep s = .next t) :
    t.params = s.params ∧ t.queue <:+ s.queue ∧ (t.halted = false → s.halted = false) ∧
      t.outstanding = s.outstanding := by
  obtain ⟨-, rfl⟩ | ⟨p, rest, hrun, hq, hcase⟩ := blockStep_cases h
  · exact ⟨rfl, List.suffix_refl _, id, rfl⟩
  have hfetched : t.params = s.params ∧ t.queue = rest ∧ t.outstanding = s.outstanding := by
    obtain ⟨e, -, rfl⟩ | ⟨i, -, hr⟩ | ⟨i, c, -, -, -, rfl⟩ := hcase
    · exact ⟨rfl, rfl, rfl⟩
    · rw [runOf_frame hr]; exact ⟨rfl, rfl, rfl⟩
    · exact ⟨rfl, rfl, rfl⟩
  obtain ⟨hparams, hrest, hkeep⟩ := hfetched
  exact ⟨hparams, by rw [hrest, hq]; exact List.suffix_cons p rest, fun _ => hrun, hkeep⟩

/-- A block step keeps Q within QDEPTH and its footprints outstanding: the packets left in Q were there before. -/
theorem queueInvariants_blockStep {s t : State} (hbound : QueueBounded s) (hout : QueueOutstanding s)
    (h : blockStep s = .next t) : QueueBounded t ∧ QueueOutstanding t := by
  obtain ⟨hparams, hqueue, hrun, hkeep⟩ := blockStep_queue h
  constructor
  · rw [QueueBounded, hparams]
    exact hqueue.length_le.trans hbound
  · intro ht p hp f hf
    rw [hparams] at hf
    rw [hkeep]
    exact hout (hrun ht) p (hqueue.subset hp) f hf

/-- A push that need not wait keeps Q within QDEPTH and makes the new packet's footprint outstanding (60_exceptions R240,
20_memory R65). -/
theorem queueInvariants_pushPacket {s : State} (hbound : QueueBounded s) (hout : QueueOutstanding s)
    (hroom : s.pushWaits = false) (p : Packet) :
    QueueBounded (s.pushPacket p) ∧ QueueOutstanding (s.pushPacket p) := by
  cases hh : s.halted with
  | true =>
    have hdiscard : s.pushPacket p = s := by simp [State.pushPacket, hh]
    rw [hdiscard]; exact ⟨hbound, hout⟩
  | false =>
    have happend : s.pushPacket p = { s with
        queue := s.queue ++ [p], outstanding := s.outstanding ++ (footprintOf s.params p).toList } := by
      simp [pushPacket_eq, hh]
    have hlt : s.queue.length < s.params.qdepth := by simpa [State.pushWaits, hh] using hroom
    rw [happend]
    refine ⟨by simpa [QueueBounded] using hlt, fun _ q hq f hf => ?_⟩
    rw [List.mem_append] at hq ⊢
    obtain hq | hq := hq
    · exact .inl (hout hh q hq f hf)
    · rw [List.mem_singleton.1 hq] at hf
      exact .inr (by rw [hf]; simp)

/-- The completion of a fence keeps Q within QDEPTH, and empties OUTSTANDING only when Q is empty or the block is halted
(45_sync R211). -/
theorem queueInvariants_completeFence {s : State} (hbound : QueueBounded s) (hdone : s.fenceDone = true) :
    QueueBounded s.completeFence ∧ QueueOutstanding s.completeFence := by
  refine ⟨hbound, fun hrun p hp f _ => ?_⟩
  have hempty : s.queue = [] := by
    have hrun' : s.halted = false := hrun
    simp only [State.fenceDone, hrun', Bool.or_false, Bool.and_eq_true, List.isEmpty_iff] at hdone
    exact hdone.2
  simp [hempty] at hp

/-- A host action that need not wait keeps Q within QDEPTH and its footprints outstanding (60_exceptions R240). -/
theorem queueInvariants_takeAction {a : HostAction} {s t : State} (hbound : QueueBounded s) (hout : QueueOutstanding s)
    (hwait : s.hostMustWait a = false) (h : takeAction a s = .next t) : QueueBounded t ∧ QueueOutstanding t := by
  obtain ⟨p, rfl, rfl⟩ | ⟨p, -, -, rfl⟩ | ⟨p, v, -, -, rfl⟩ | ⟨-, rfl⟩ | ⟨-, rfl⟩ | ⟨-, rfl⟩ | ⟨rfl, rfl⟩ | ⟨-, rfl⟩ :=
    takeAction_cases h
  · exact queueInvariants_pushPacket hbound hout (Bool.or_eq_false_iff.1 hwait).2 p
  · exact ⟨hbound, hout⟩
  · exact ⟨hbound, hout⟩
  · exact ⟨hbound, hout⟩
  · exact ⟨hbound, hout⟩
  · exact ⟨hbound, hout⟩
  · exact queueInvariants_pushPacket hbound hout (Bool.or_eq_false_iff.1 hwait).2 fencePacket
  · exact ⟨Nat.zero_le _, fun _ p hp => by simp at hp⟩

/-- Settles O60: the block only takes packets from Q, and a push has room and records its footprint. -/
theorem stepKeepsQueueOutstanding : Obligations.StepKeepsQueueOutstanding := by
  intro s t hbound hout hs
  obtain ⟨hd, rfl⟩ | ⟨-, ⟨-, hb⟩ | ⟨rest, -, hb⟩ | ⟨a, rest, -, -, hb⟩ | ⟨a, rest, -, hwait, ha⟩⟩ := step_cases hs
  · exact queueInvariants_completeFence hbound hd
  · exact queueInvariants_blockStep hbound hout hb
  · exact queueInvariants_blockStep (s := s.setEvents rest) hbound hout hb
  · exact queueInvariants_blockStep hbound hout hb
  · exact queueInvariants_takeAction (s := s.setEvents rest) hbound hout (by cases a <;> exact hwait) ha

/-! ### Reset (O53) -/

/-- Settles O53: after reset the storage and Q are empty, every valid bit and the fault record are clear. -/
theorem resetMeetsTheInvariants : Obligations.ResetMeetsTheInvariants := by
  have hcanonical : StorageCanonical State.reset := ⟨reset_mem_wf, by decide, by decide, by decide⟩
  have hacc : AccInRange State.reset := fun r j v hv => by
    simp [State.reset, State.initial, State.accElem, CellStore.cell, lookupKey] at hv
  have hweights : WeightsInRange State.reset := ⟨weightTile_resetTile _, weightTile_resetTile _⟩
  have hqueue : QueueOutstanding State.reset := fun _ p hp => by simp [State.reset, State.initial] at hp
  have hdest : DestinationLegal State.reset := fun hv => by simp [State.reset, State.initial] at hv
  exact ⟨by decide, hcanonical, hacc, hweights, by decide, by decide, hdest, by decide, by decide, hqueue⟩

end Sys2Proof.Machine
end

section
/-! A host write of MEM outside the outstanding footprints, and the block step (20_memory R63 to R66, R71): what a command
reads and writes of MEM lies in its footprint, so the step ends alike before and after the write. -/

namespace Sys2Proof.Machine

/-! ### The footprint of a decoded command -/

/-- The footprint of a command (20_memory R65): MVIN and MVOUT alone have one. -/
def instrFootprint (p : Params) : Instr → Option Footprint
  | .mvin arg1 _ => some { base := memAddr arg1, size := p.dim * p.dim }
  | .mvout arg1 _ => some { base := memAddr arg1, size := p.dim * p.dim }
  | _ => none

/-- A decoded packet's fields are those of a row of the opcode map with the packet's OPCODE (30_encoding R88). -/
theorem row_of_decode {p : Packet} {i : Instr} (h : decode p = .ok i) :
    ∃ row ∈ opcodeTable, opcodeOf p.cmd = opcodeOf row.pattern ∧ readFields row.mnemonic p = i := by
  unfold decode at h
  cases hr : selectRow p.cmd with
  | none => simp [hr] at h
  | some row =>
    have hmem : row ∈ opcodeTable := List.mem_of_find?_eq_some hr
    have hsel : row.selects p.cmd = true := by simpa using List.find?_some hr
    simp only [hr] at h
    split_ifs at h
    exact ⟨row, hmem, Laws.opcodeOf_of_selects hmem hsel, Except.ok.inj h⟩

/-- The move commands are the rows of the opcode map with OPCODE 0x10 and 0x11 (30_encoding R88). -/
theorem opcodeTable_moves : ∀ row ∈ opcodeTable,
    (opcodeOf row.pattern = 0x10#8 ∨ opcodeOf row.pattern = 0x11#8) ↔ (row.mnemonic = .mvin ∨ row.mnemonic = .mvout) := by
  decide

/-- The footprint of a legal packet is that of the command it decodes to (20_memory R65). -/
theorem footprintOf_of_decode {p : Packet} {i : Instr} (params : Params) (h : decode p = .ok i) :
    footprintOf params p = instrFootprint params i := by
  obtain ⟨row, hmem, hop, rfl⟩ := row_of_decode h
  rw [footprintOf, hop]
  simp only [opcodeTable_moves row hmem]
  cases row.mnemonic <;> rfl

/-! ### Reads of MEM by a command -/

/-- A collection depends on its elements alone. -/
theorem gather_congr {α : Type} {f g : Nat → Except Cause α} {n : Nat} (h : ∀ j < n, f j = g j) :
    gather f n = gather g n := by
  induction n with
  | zero => rfl
  | succ n ih => rw [gather, gather, ih fun j hj => h j (by omega), h n (by omega)]

/-- A grid depends on its elements alone. -/
theorem gatherGrid_congr {α : Type} {f g : Nat → Nat → Except Cause α} {m n : Nat}
    (h : ∀ i < m, ∀ j < n, f i j = g i j) : gatherGrid f m n = gatherGrid g m n :=
  gather_congr fun i hi => gather_congr (h i hi)

/-- A stored row depends on the values of its columns alone. -/
theorem CellStore.putRow_congr {α : Type} (st : CellStore α) (r : Nat) {f g : Nat → α} {n : Nat}
    (h : ∀ c < n, f c = g c) : st.putRow r f n = st.putRow r g n := by
  induction n with
  | zero => rfl
  | succ n ih => rw [CellStore.putRow, CellStore.putRow, ih fun c hc => h c (by omega), h n (by omega)]

/-- A stored grid depends on the values of its cells alone. -/
theorem CellStore.putGrid_congr {α : Type} (st : CellStore α) (r : Nat) {f g : Nat → Nat → α} {n m : Nat}
    (h : ∀ i < m, ∀ c < n, f i c = g i c) : st.putGrid r f n m = st.putGrid r g n m := by
  induction m with
  | zero => rfl
  | succ m ih =>
    rw [CellStore.putGrid, CellStore.putGrid, ih fun i hi => h i (by omega), CellStore.putRow_congr _ _ (h m (by omega))]

/-- Address `a` lies outside the DIM·DIM bytes at `ma`. -/
abbrev OutsideTile (p : Params) (ma a : Nat) : Prop := ¬ (ma ≤ a ∧ a < ma + p.dim * p.dim)

/-- A packed tile lies in its footprint: DIM rows of at most DIM bytes (20_memory R55, R65). -/
theorem OutsideTile.not_packed {p : Params} {ma a w : Nat} (h : OutsideTile p ma a) (hw : w ≤ 8) :
    ¬ (ma ≤ a ∧ a < ma + p.dim * rowBytes p w) := by
  have hle : p.dim * rowBytes p w ≤ p.dim * p.dim := Nat.mul_le_mul_left _ (rowBytes_le p hw)
  rintro ⟨hlo, hhi⟩
  exact h ⟨hlo, by omega⟩

/-- No byte of a packed tile is a byte outside its footprint. -/
theorem OutsideTile.byte_ne {p : Params} {ma a w i b : Nat} (h : OutsideTile p ma a) (hw : w ≤ 8) (hi : i < p.dim)
    (hb : b < rowBytes p w) : ma + i * rowBytes p w + b ≠ a := by
  have hrow : (i + 1) * rowBytes p w ≤ p.dim * rowBytes p w := Nat.mul_le_mul_right _ hi
  rw [Nat.succ_mul] at hrow
  rintro rfl
  exact h.not_packed hw ⟨by omega, by omega⟩

/-! ### Two runs that end alike but for one byte of MEM -/

/-- `m'` is `m` with the byte `v` at address `a`. -/
def ByteWritten (a : Nat) (v : Byte) (m m' : Memory) : Prop := ∀ a', m'.read a' = if a' = a then v else m.read a'

/-- A host write writes its byte (60_exceptions R240). -/
theorem byteWritten_write (m : Memory) (a : Nat) (v : Byte) : ByteWritten a v m (m.write a v) := fun a' => by
  rw [Memory.read_write]; exact if_congr eq_comm rfl rfl

/-- A range write elsewhere keeps the difference. -/
theorem ByteWritten.writeRange {a : Nat} {v : Byte} {m m' : Memory} (h : ByteWritten a v m m') {b n : Nat}
    (hout : ¬ (b ≤ a ∧ a < b + n)) (f : Nat → Byte) : ByteWritten a v (m.writeRange b f n) (m'.writeRange b f n) := by
  intro a'
  rw [Memory.read_writeRange, Memory.read_writeRange, h a']
  by_cases ha : a' = a
  · simp [ha, hout]
  · simp [ha]

/-- The runs fail alike, or both complete, in states that differ by the byte `v` at MEM address `a` alone. -/
inductive EndAlike (a : Nat) (v : Byte) : Except Cause State → Except Cause State → Prop
  | error (c : Cause) : EndAlike a v (.error c) (.error c)
  | ok {t : State} {m : Memory} (h : ByteWritten a v t.mem m) : EndAlike a v (.ok t) (.ok (t.setMem m))

section EndAlike
variable {a : Nat} {v : Byte}

/-- After the same check, runs that end alike. -/
theorem EndAlike.bind {α : Type} {x : Except Cause α} {f g : α → Except Cause State}
    (h : ∀ r, x = .ok r → EndAlike a v (f r) (g r)) : EndAlike a v (x >>= f) (x >>= g) := by
  cases x with
  | error c => exact .error c
  | ok r => exact h r rfl

/-- After checks that answer the same, runs that end alike. -/
theorem EndAlike.bind_of_eq {α : Type} {x y : Except Cause α} {f g : α → Except Cause State} (hxy : y = x)
    (h : ∀ r, x = .ok r → EndAlike a v (f r) (g r)) : EndAlike a v (x >>= f) (y >>= g) := by
  rw [hxy]; exact .bind h

/-- After runs that end alike, an update outside MEM. -/
theorem EndAlike.update {x y : Except Cause State} (h : EndAlike a v x y) (f : State → State)
    (hmem : ∀ t, (f t).mem = t.mem) (hf : ∀ t m, f (t.setMem m) = (f t).setMem m) :
    EndAlike a v (x >>= fun t => .ok (f t)) (y >>= fun t => .ok (f t)) := by
  cases h with
  | error c => exact .error c
  | @ok t m h => rw [ok_bind, ok_bind, hf]; exact .ok (by rwa [hmem])

variable {s : State} {m : Memory} (hm : ByteWritten a v s.mem m)
include hm

/-- MVIN of a tile away from the byte: it reads MEM in its footprint alone (44_move R195, 20_memory R65). -/
theorem runMvin_endAlike {arg1 arg2 : ArgWord} (hld : LegalPrecision s.params s.cfgLd)
    (hout : OutsideTile s.params (memAddr arg1) a) :
    EndAlike a v (runMvin arg1 arg2 s) (runMvin arg1 arg2 (s.setMem m)) := by
  have hread : ∀ i < s.params.dim, ∀ b < rowBytes s.params s.cfgLd.width,
      (s.setMem m).memByte (memAddr arg1 + i * rowBytes s.params s.cfgLd.width + b)
        = s.memByte (memAddr arg1 + i * rowBytes s.params s.cfgLd.width + b) := fun i hi b hb =>
    (hm _).trans (if_neg (hout.byte_ne s.cfgLd.width_le hi hb))
  refine .bind fun _ hvalid => .bind fun la _ => .bind fun _ _ => ?_
  obtain ⟨-, hbytes⟩ := hld (require_ok.1 hvalid)
  cases la.space with
  | sp =>
    have hgrid := CellStore.putGrid_congr s.sp la.row hread
    simp only [State.setMem_sp, State.setMem_params, State.setMem_cfgLd, hgrid]
    exact .ok hm
  | acc =>
    have hfield : ∀ i < s.params.dim, ∀ j < s.params.dim,
        memField (s.setMem m) (memAddr arg1) s.cfgLd.width i j = memField s (memAddr arg1) s.cfgLd.width i j :=
      fun i hi j hj => congrArg (unpackSigned · _ _) (hread i hi _ (byteIndex_lt s.cfgLd.width_cases hbytes hj))
    have hgrid := gatherGrid_congr fun i hi j hj => congrArg (addResident s la.accum (la.row + i) j) (hfield i hi j hj)
    exact .bind_of_eq hgrid fun new _ => .ok hm

/-- MVOUT of a tile away from the byte: it writes MEM in its footprint alone (44_move R196, 20_memory R65). -/
theorem runMvout_endAlike {arg1 arg2 : ArgWord} (hout : OutsideTile s.params (memAddr arg1) a) :
    EndAlike a v (runMvout arg1 arg2 s) (runMvout arg1 arg2 (s.setMem m)) := by
  refine .bind fun _ _ => .bind fun la _ => .bind fun _ _ => .bind fun _ _ => ?_
  cases la.space with
  | sp => exact .bind fun rows _ => .ok (hm.writeRange (hout.not_packed s.cfgSt.width_le) _)
  | acc => exact .bind fun vals _ => .ok (hm.writeRange (hout.not_packed s.cfgSt.width_le) _)

/-- `compute_body` uses no MEM (43_matmul R170). -/
theorem computeBody_endAlike (ar : Nat) (dla : LocalWord) (weight : Tile) :
    EndAlike a v (computeBody s ar dla weight) (computeBody (s.setMem m) ar dla weight) := by
  refine .bind fun dest _ => .bind fun ta _ => .bind fun td _ => ?_
  cases dest with
  | none => exact .ok hm
  | some la =>
    simp only [State.setMem_cfgQ]
    cases s.cfgQ.policy with
    | wide => exact .bind fun new _ => .ok hm
    | packed => exact .bind fun out _ => .ok hm

/-- PRELOAD uses no MEM (43_matmul R171). -/
theorem runPreload_endAlike (arg1 arg2 : ArgWord) :
    EndAlike a v (runPreload arg1 arg2 s) (runPreload arg1 arg2 (s.setMem m)) := by
  refine .bind fun wr _ => .bind fun _ _ => .bind fun _ _ => ?_
  cases wr with
  | none => exact .ok hm
  | some r => exact .bind fun t _ => .ok hm

/-- A command whose footprint does not hold the byte ends alike with and without it (20_memory R65, R71). -/
theorem runOf_endAlike {i : Instr} (hlegal : ConfigLegal s)
    (hout : ∀ f ∈ instrFootprint s.params i, ¬ (f.base ≤ a ∧ a < f.base + f.size)) :
    EndAlike a v (runOf i s) (runOf i (s.setMem m)) := by
  cases i with
  | cfgprec role log2w arg1 arg2 =>
    exact .bind fun _ _ => .bind fun _ _ => .bind fun _ _ => .bind fun _ _ => by cases role <;> exact .ok hm
  | cfgacc | fence | flush => exact .ok hm
  | mvin arg1 arg2 =>
    obtain ⟨hld, -, -⟩ := hlegal
    exact runMvin_endAlike hm hld (hout _ rfl)
  | mvout arg1 arg2 => exact runMvout_endAlike hm (hout _ rfl)
  | preload arg1 arg2 => exact runPreload_endAlike hm arg1 arg2
  | computePre arg1 arg2 =>
    exact .bind fun ar _ => .bind fun _ _ => .bind fun _ _ =>
      (computeBody_endAlike hm ar _ s.pendw).update (·.makeResident s.pendw) (fun _ => rfl) (fun _ _ => rfl)
  | computeAcc arg1 arg2 =>
    exact .bind fun ar _ => .bind fun _ _ => .bind fun _ _ => .bind fun _ _ =>
      (computeBody_endAlike hm ar _ s.wreg).update State.consumeDest (fun _ => rfl) (fun _ _ => rfl)
  | pack k lw arg1 arg2 => exact .bind fun _ _ => .bind fun src _ => .bind fun dst _ => .bind fun x _ => .ok hm
  | unpack k lw arg1 arg2 =>
    exact .bind fun _ _ => .bind fun src _ => .bind fun dst _ => .bind fun bytes _ => .bind fun new _ => .ok hm

/-- Runs that end alike settle alike: a fault entry keeps MEM (60_exceptions R226, R227). -/
theorem settle_alike {x y : Except Cause State} {i : Instr} {t : State} (h : EndAlike a v x y)
    (hs : settle i s x = .next t) :
    ∃ m', settle i (s.setMem m) y = .next (t.setMem m') ∧ ByteWritten a v t.mem m' := by
  cases h with
  | error c => cases hs; exact ⟨m, rfl, hm⟩
  | ok hw => cases hs; exact ⟨_, rfl, hw⟩

end EndAlike

/-! ### The block step (O51) -/

/-- A block step of a running block runs the head of Q (60_exceptions R241). -/
theorem blockStep_running {s : State} {p : Packet} {rest : List Packet} (hrun : s.halted = false)
    (hq : s.queue = p :: rest) : blockStep s = runPacket p (s.setQueue rest) := by
  rw [blockStep, fetch_some.2 ⟨hrun, rest, hq, rfl⟩]

/-- A block step of an idle block changes nothing (60_exceptions R249). -/
theorem blockStep_idle {s : State} (h : s.halted = true ∨ s.queue = []) : blockStep s = .next s := by
  rw [blockStep, fetch_none.2 h]

/-- A packet whose command's footprint does not hold the byte steps alike with and without it. -/
theorem runPacket_alike {a : Nat} {v : Byte} {s t : State} {m : Memory} {p : Packet} (hm : ByteWritten a v s.mem m)
    (hlegal : ConfigLegal s) (hout : ∀ f ∈ footprintOf s.params p, ¬ (f.base ≤ a ∧ a < f.base + f.size))
    (h : runPacket p s = .next t) :
    ∃ m', runPacket p (s.setMem m) = .next (t.setMem m') ∧ ByteWritten a v t.mem m' := by
  unfold runPacket at h ⊢
  cases hd : decode p with
  | error e =>
    simp only [hd, Host.Outcome.next.injEq] at h
    subst h
    exact ⟨m, rfl, hm⟩
  | ok i =>
    simp only [hd] at h ⊢
    have halike : EndAlike a v (runOf i s) (runOf i (s.setMem m)) :=
      runOf_endAlike hm hlegal fun f hf => hout f (footprintOf_of_decode s.params hd ▸ hf)
    rw [exec_eq_settle] at h ⊢
    exact settle_alike hm halike h

/-- Settles O51: the head of Q has its footprint outstanding, so the written byte is outside it. -/
theorem fencedHostWriteCommutesWithBlock : Obligations.FencedHostWriteCommutesWithBlock := by
  intro s t a v hqueue hlegal hout hs
  have hm := byteWritten_write s.mem a v
  suffices hstep : ∃ m', blockStep (s.setMem (s.mem.write a v)) = .next (t.setMem m') ∧ ByteWritten a v t.mem m' by
    obtain ⟨m', hstep, hbytes⟩ := hstep
    exact ⟨t.setMem m', hstep, rfl, hbytes⟩
  cases hf : s.fetch with
  | none =>
    have hidle := fetch_none.1 hf
    rw [blockStep_idle hidle, Host.Outcome.next.injEq] at hs
    subst hs
    exact ⟨_, blockStep_idle hidle, hm⟩
  | some head =>
    obtain ⟨p, u⟩ := head
    obtain ⟨hrun, rest, hq, rfl⟩ := fetch_some.1 hf
    have hhead : ∀ f ∈ footprintOf s.params p, ¬ (f.base ≤ a ∧ a < f.base + f.size) :=
      fun f hf => hout f (hqueue hrun p (by simp [hq]) f hf)
    rw [blockStep_running hrun hq] at hs
    rw [blockStep_running (s := s.setMem (s.mem.write a v)) hrun hq]
    exact runPacket_alike (s := s.setQueue rest) hm hlegal hhead hs

end Sys2Proof.Machine
end

section
/-! Encoding and decoding of command packets (30_encoding R75 to R91): the opcode map read as one OPCODE and one reserved
field for each command, the CMD formats read as their fields, and from both that `encode` and `decode` are inverse. -/

namespace Sys2Proof

/-! ### The opcode map, one command at a time -/

/-- The OPCODE of a command (R88). -/
def Mnemonic.opcode : Mnemonic → BitVec 8
  | .cfgprec => 0x01#8
  | .cfgacc => 0x02#8
  | .mvin => 0x10#8
  | .mvout => 0x11#8
  | .preload => 0x20#8
  | .computePre => 0x21#8
  | .computeAcc => 0x22#8
  | .pack => 0x30#8
  | .unpack => 0x31#8
  | .fence => 0x40#8
  | .flush => 0x41#8

/-- The lowest reserved CMD bit of a command, from its format: P, Q, C or N (R77 to R80). -/
def Mnemonic.reservedFrom : Mnemonic → Nat
  | .cfgprec => 13
  | .cfgacc => 16
  | .pack | .unpack => 10
  | .mvin | .mvout | .preload | .computePre | .computeAcc | .fence | .flush => 8

/-- The number of reserved CMD bits of a command (R77 to R80). -/
def Mnemonic.reservedBits : Mnemonic → Nat
  | .cfgprec => 19
  | .cfgacc => 16
  | .pack | .unpack => 6
  | .mvin | .mvout | .preload | .computePre | .computeAcc | .fence | .flush => 24

/-- `cmd` is a word of command `m`: it has `m`'s OPCODE and 0 in `m`'s reserved bits (R88). -/
def Mnemonic.Matches (m : Mnemonic) (cmd : CmdWord) : Prop :=
  opcodeOf cmd = m.opcode ∧ cmd.extractLsb' m.reservedFrom m.reservedBits = 0

/-- Each command has its row in the opcode map (R88). -/
theorem Mnemonic.exists_row (m : Mnemonic) : ∃ row ∈ opcodeTable, row.mnemonic = m := by
  cases m <;> decide

/-- A row of the opcode map matches its command's OPCODE (R88). -/
theorem opcodeTable_pattern : ∀ row ∈ opcodeTable,
    opcodeOf row.pattern = row.mnemonic.opcode ∧ ∀ i < 32, 8 ≤ i → row.pattern.getLsbD i = false := by
  decide

/-- No two commands share an OPCODE (R88). -/
theorem Mnemonic.opcode_inj {m m' : Mnemonic} : m.opcode = m'.opcode ↔ m = m' := by
  obtain ⟨row, hr, rfl⟩ := m.exists_row
  obtain ⟨row', hr', rfl⟩ := m'.exists_row
  refine ⟨fun h => ?_, congrArg Mnemonic.opcode⟩
  rw [← (opcodeTable_pattern row hr).1, ← (opcodeTable_pattern row' hr').1] at h
  rw [Laws.opcodeTable_opcodes.2 row hr row' hr' h]

/-- The mask of a row covers OPCODE and its command's reserved bits, and nothing else (R88). -/
theorem opcodeTable_mask : ∀ row ∈ opcodeTable, ∀ i < 32,
    row.mask.getLsbD i = decide (i < 8 ∨
      (row.mnemonic.reservedFrom ≤ i ∧ i < row.mnemonic.reservedFrom + row.mnemonic.reservedBits)) := by
  decide

/-- The reserved bits of a command are bits of CMD above OPCODE (R77 to R80). -/
theorem Mnemonic.reserved_bounds (m : Mnemonic) :
    8 ≤ m.reservedFrom ∧ m.reservedFrom + m.reservedBits ≤ 32 := by
  cases m <;> decide

/-- A row of the opcode map selects the words of its command (R88). -/
theorem selects_iff_matches {row : OpcodeRow} (hr : row ∈ opcodeTable) (cmd : CmdWord) :
    row.selects cmd = true ↔ row.mnemonic.Matches cmd := by
  obtain ⟨hop, hpat⟩ := opcodeTable_pattern row hr
  have hmask := opcodeTable_mask row hr
  obtain ⟨hlow, hhigh⟩ := row.mnemonic.reserved_bounds
  have hbit : row.selects cmd = true ↔ ∀ i < 32, (cmd.getLsbD i && row.mask.getLsbD i) = row.pattern.getLsbD i := by
    simp [OpcodeRow.selects, BitVec.eq_of_getLsbD_eq_iff]
  rw [hbit, Mnemonic.Matches, ← hop]
  simp only [opcodeOf, BitVec.eq_of_getLsbD_eq_iff, BitVec.getLsbD_extractLsb', BitVec.ofNat_eq_ofNat, BitVec.getLsbD_zero]
  constructor
  · intro h
    refine ⟨fun i hi => ?_, fun i hi => ?_⟩
    · have := h i (by omega)
      simpa [hmask i (by omega), hi] using this
    · have hi' : row.mnemonic.reservedFrom + i < 32 := by omega
      have := h _ hi'
      simpa [hmask _ hi', hpat _ hi' (by omega), hi] using this
  · rintro ⟨hopcode, hreserved⟩ i hi
    rw [hmask i hi]
    by_cases hlt : i < 8
    · simpa [hlt] using hopcode i hlt
    · rw [hpat i hi (by omega)]
      by_cases hres : row.mnemonic.reservedFrom ≤ i ∧ i < row.mnemonic.reservedFrom + row.mnemonic.reservedBits
      · have := hreserved (i - row.mnemonic.reservedFrom) (by omega)
        have hlen : i - row.mnemonic.reservedFrom < row.mnemonic.reservedBits := by omega
        rw [Nat.add_sub_cancel' hres.1, decide_eq_true hlen, Bool.true_and] at this
        rw [this, Bool.false_and]
      · simp [hlt, hres]

/-- The opcode map answers the row that selects the word (R88). -/
theorem selectRow_eq_some {cmd : CmdWord} {row : OpcodeRow} :
    selectRow cmd = some row ↔ row ∈ opcodeTable ∧ row.mnemonic.Matches cmd := by
  constructor
  · intro h
    have hr : row ∈ opcodeTable := List.mem_of_find?_eq_some h
    exact ⟨hr, (selects_iff_matches hr cmd).1 (by simpa using List.find?_some h)⟩
  · rintro ⟨hr, hm⟩
    exact Laws.selectRow_eq hr ((selects_iff_matches hr cmd).2 hm)

/-- A packet decodes to the well-formed instruction whose command its CMD word matches (R88, R89). -/
theorem decode_eq_ok {p : Packet} {i : Instr} :
    decode p = .ok i ↔ ∃ m : Mnemonic, m.Matches p.cmd ∧ readFields m p = i ∧ i.wellFormed = true := by
  unfold decode
  constructor
  · intro h
    cases hrow : selectRow p.cmd with
    | none => simp [hrow] at h
    | some row =>
      simp only [hrow] at h
      split_ifs at h with hwf
      cases h
      exact ⟨row.mnemonic, (selectRow_eq_some.1 hrow).2, rfl, hwf⟩
  · rintro ⟨m, hm, rfl, hwf⟩
    obtain ⟨row, hr, rfl⟩ := m.exists_row
    simp [selectRow_eq_some.2 ⟨hr, hm⟩, hwf]

/-! ### The CMD formats, read as their fields -/

/-- Bits that are two fields side by side are those fields. -/
theorem extractLsb'_eq_append {n s w v : Nat} {x : BitVec n} {a : BitVec w} {b : BitVec v} :
    x.extractLsb' s (w + v) = a ++ b ↔ x.extractLsb' (s + v) w = a ∧ x.extractLsb' s v = b := by
  rw [← BitVec.extractLsb'_append_extractLsb'_eq_extractLsb' (x := x) (rfl : s + v = s + v)]
  constructor
  · intro h
    have hhigh := congrArg (BitVec.extractLsb' v w) h
    have hlow := congrArg (BitVec.extractLsb' 0 v) h
    simp only [BitVec.extractLsb'_append_eq_left, BitVec.extractLsb'_append_eq_right] at hhigh hlow
    exact ⟨hhigh, hlow⟩
  · rintro ⟨rfl, rfl⟩; rfl

/-- The fields of a format N word (R77). -/
theorem eq_formatN {cmd : CmdWord} {o : BitVec 8} :
    cmd = formatN o ↔ cmd.extractLsb' 8 24 = 0#24 ∧ opcodeOf cmd = o := by
  conv_lhs => rw [← BitVec.extractLsb'_eq_self (x := cmd)]
  exact extractLsb'_eq_append (w := 24) (v := 8)

/-- The fields of a format P word (R78). -/
theorem eq_formatP {cmd : CmdWord} {log2w : BitVec 3} {role : BitVec 2} :
    cmd = formatP log2w role ↔
      ((cmd.extractLsb' 13 19 = 0#19 ∧ cmd.extractLsb' 10 3 = log2w) ∧ cmd.extractLsb' 8 2 = role) ∧ opcodeOf cmd = 0x01#8 := by
  conv_lhs => rw [← BitVec.extractLsb'_eq_self (x := cmd)]
  refine (extractLsb'_eq_append (w := 24) (v := 8)).trans (and_congr_left' ?_)
  refine (extractLsb'_eq_append (w := 22) (v := 2)).trans (and_congr_left' ?_)
  exact extractLsb'_eq_append (w := 19) (v := 3)

/-- The fields of a format Q word (R79). -/
theorem eq_formatQ {cmd : CmdWord} {policy relu : Bool} {shift : BitVec 6} :
    cmd = formatQ policy relu shift ↔
      (((cmd.extractLsb' 16 16 = 0#16 ∧ cmd.getLsbD 15 = policy) ∧ cmd.getLsbD 14 = relu) ∧ cmd.extractLsb' 8 6 = shift) ∧
        opcodeOf cmd = 0x02#8 := by
  have hbit : ∀ {k : Nat} {b : Bool}, cmd.extractLsb' k 1 = BitVec.ofBool b ↔ cmd.getLsbD k = b := by
    intro k b
    rw [BitVec.eq_of_getLsbD_eq_iff]
    simp [BitVec.getLsbD_extractLsb']
  conv_lhs => rw [← BitVec.extractLsb'_eq_self (x := cmd)]
  refine (extractLsb'_eq_append (w := 24) (v := 8)).trans (and_congr_left' ?_)
  refine (extractLsb'_eq_append (w := 18) (v := 6)).trans (and_congr_left' ?_)
  refine (extractLsb'_eq_append (w := 17) (v := 1)).trans (and_congr ?_ hbit)
  exact (extractLsb'_eq_append (w := 16) (v := 1)).trans (and_congr_right' hbit)

/-- The fields of a format C word (R80). -/
theorem eq_formatC {cmd : CmdWord} {k : BitVec 16} {lw : BitVec 2} {o : BitVec 8} :
    cmd = formatC k lw o ↔
      ((cmd.extractLsb' 16 16 = k ∧ cmd.extractLsb' 10 6 = 0#6) ∧ cmd.extractLsb' 8 2 = lw) ∧ opcodeOf cmd = o := by
  conv_lhs => rw [← BitVec.extractLsb'_eq_self (x := cmd)]
  refine (extractLsb'_eq_append (w := 24) (v := 8)).trans (and_congr_left' ?_)
  refine (extractLsb'_eq_append (w := 22) (v := 2)).trans (and_congr_left' ?_)
  exact extractLsb'_eq_append (w := 16) (v := 6)

/-! ### The fields of an instruction, written and read back -/

/-- ROLE read back from its bits (R78). -/
@[simp] theorem Role.ofBits_bits (r : Role) : Role.ofBits r.bits = r := by
  cases r <;> decide

/-- ROLE written back to its bits (R78). -/
@[simp] theorem Role.bits_ofBits (b : BitVec 2) : (Role.ofBits b).bits = b := by
  revert b; decide

/-- ROLE is reserved when its bits are 3 (R78, R89). -/
theorem Role.ofBits_eq_reserved (b : BitVec 2) : Role.ofBits b = .reserved ↔ b = 3#2 := by
  revert b; decide

/-- POLICY read back from its bit (R79). -/
@[simp] theorem Policy.ofBit_bit (q : Policy) : Policy.ofBit q.bit = q := by
  cases q <;> rfl

/-- POLICY written back to its bit (R79). -/
@[simp] theorem Policy.bit_ofBit (b : Bool) : (Policy.ofBit b).bit = b := by
  cases b <;> rfl

/-- An encoded word is a word of its instruction's command (R77 to R80, R88). -/
theorem matches_encode (i : Instr) : i.mnemonic.Matches (encode i).cmd := by
  cases i with
  | cfgprec role log2w a b =>
    obtain ⟨⟨⟨hres, -⟩, -⟩, hop⟩ := eq_formatP.1 (rfl : formatP log2w role.bits = _)
    exact ⟨hop, hres⟩
  | cfgacc shift relu policy a b =>
    obtain ⟨⟨⟨⟨hres, -⟩, -⟩, -⟩, hop⟩ := eq_formatQ.1 (rfl : formatQ policy.bit relu shift = _)
    exact ⟨hop, hres⟩
  | pack k lw a b | unpack k lw a b =>
    obtain ⟨⟨⟨-, hres⟩, -⟩, hop⟩ := eq_formatC.1 (rfl : formatC k lw _ = _)
    exact ⟨hop, hres⟩
  | _ => exact (eq_formatN.1 rfl).symm

/-- Reading the fields of an encoded instruction gives them back (R77 to R81). -/
theorem readFields_encode (i : Instr) : readFields i.mnemonic (encode i) = i := by
  cases i with
  | cfgprec role log2w a b =>
    obtain ⟨⟨⟨-, hlog2w⟩, hrole⟩, -⟩ := eq_formatP.1 (rfl : formatP log2w role.bits = _)
    simp only [Instr.mnemonic, readFields, encode, hlog2w, hrole, Role.ofBits_bits]
  | cfgacc shift relu policy a b =>
    obtain ⟨⟨⟨⟨-, hpolicy⟩, hrelu⟩, hshift⟩, -⟩ := eq_formatQ.1 (rfl : formatQ policy.bit relu shift = _)
    simp only [Instr.mnemonic, readFields, encode, hpolicy, hrelu, hshift, Policy.ofBit_bit]
  | pack k lw a b =>
    obtain ⟨⟨⟨hk, -⟩, hlw⟩, -⟩ := eq_formatC.1 (rfl : formatC k lw 0x30#8 = _)
    simp only [Instr.mnemonic, readFields, encode, hk, hlw]
  | unpack k lw a b =>
    obtain ⟨⟨⟨hk, -⟩, hlw⟩, -⟩ := eq_formatC.1 (rfl : formatC k lw 0x31#8 = _)
    simp only [Instr.mnemonic, readFields, encode, hk, hlw]
  | _ => rfl

/-- Writing the fields read from a word of the command gives the packet back, whatever its ARG words (R77 to R82). -/
theorem encode_readFields {m : Mnemonic} {p : Packet} (h : m.Matches p.cmd) : encode (readFields m p) = p := by
  obtain ⟨hop, hres⟩ := h
  suffices hcmd : p.cmd = (encode (readFields m p)).cmd by
    calc encode (readFields m p) = ⟨(encode (readFields m p)).cmd, p.arg1, p.arg2⟩ := by cases m <;> rfl
      _ = p := by rw [← hcmd]
  cases m with
  | cfgprec => exact eq_formatP.2 ⟨⟨⟨hres, rfl⟩, (Role.bits_ofBits _).symm⟩, hop⟩
  | cfgacc => exact eq_formatQ.2 ⟨⟨⟨⟨hres, (Policy.bit_ofBit _).symm⟩, rfl⟩, rfl⟩, hop⟩
  | pack | unpack => exact eq_formatC.2 ⟨⟨⟨rfl, hres⟩, rfl⟩, hop⟩
  | _ => exact eq_formatN.2 ⟨hres, hop⟩

/-! ### The two directions of the round trip (O1, O2) -/

/-- Settles O1: the encoded word matches its own command, whose fields read back. -/
theorem decodeEncodeAgree : Obligations.DecodeEncodeAgree := by
  intro i hwf
  exact decode_eq_ok.2 ⟨i.mnemonic, matches_encode i, readFields_encode i, hwf⟩

/-- Settles O2: the OPCODE and reserved bits that the packet matches, with its fields, are all of its CMD word. -/
theorem encodeInvertsDecode : Obligations.EncodeInvertsDecode := by
  intro p i h
  obtain ⟨m, hm, rfl, hwf⟩ := decode_eq_ok.1 h
  exact ⟨encode_readFields hm, hwf⟩

/-- Settles O4: the legal words are the encodings of their instructions; the three illegal ones are evaluated. -/
theorem specWordsDecode : Obligations.SpecWordsDecode := by
  refine ⟨decodeEncodeAgree (.cfgprec .ld 1#3 4#64 0#64) rfl,
    decodeEncodeAgree (.cfgacc 63#6 false .packed 0#64 0#64) rfl,
    decodeEncodeAgree (.mvin 0x100#64 0#64) rfl,
    decodeEncodeAgree (.computeAcc 4#64 8#64) rfl,
    decodeEncodeAgree (.unpack 4#16 1#2 0#64 0x80000000#64) rfl, ?_, ?_, ?_⟩
  · decide +kernel
  · decide +kernel
  · decide +kernel

/-! ### Illegal words (O3) -/

/-- A word of a command reads as an ill-formed instruction when it is a CFGPREC with ROLE = 3 (R89, R90). -/
theorem wellFormed_readFields {m : Mnemonic} {p : Packet} :
    (readFields m p).wellFormed = true ↔ ¬ (m = .cfgprec ∧ p.cmd.extractLsb' 8 2 = 3#2) := by
  cases m with
  | cfgprec => simp [readFields, Instr.wellFormed, Role.ofBits_eq_reserved]
  | _ => simp [readFields, Instr.wellFormed]

/-- A packet fails to decode when the command of its OPCODE, if any, has a reserved bit set or the reserved ROLE (R89). -/
theorem exists_decode_eq_error {p : Packet} :
    (∃ e, decode p = .error e) ↔ ∀ m : Mnemonic, opcodeOf p.cmd = m.opcode →
      p.cmd.extractLsb' m.reservedFrom m.reservedBits ≠ 0 ∨ (m = .cfgprec ∧ p.cmd.extractLsb' 8 2 = 3#2) := by
  have herror : (∃ e, decode p = .error e) ↔ ∀ i, decode p ≠ .ok i := by
    cases decode p <;> simp
  simp only [herror, ne_eq, decode_eq_ok, Mnemonic.Matches, not_exists, not_and]
  constructor
  · intro h m hop
    by_contra hlegal
    obtain ⟨hres, hrole⟩ := not_or.1 hlegal
    exact h _ m ⟨hop, not_not.1 hres⟩ rfl (wellFormed_readFields.2 hrole)
  · rintro h i m ⟨hop, hres⟩ rfl hwf
    exact (h m hop).elim (fun hne => hne hres) (wellFormed_readFields.1 hwf)

/-- The OPCODEs that the statement of R89 lists are those of the commands. -/
theorem mem_assigned_opcodes {o : BitVec 8} :
    o ∈ [0x01#8, 0x02#8, 0x30#8, 0x31#8] ++ [0x10#8, 0x11#8, 0x20#8, 0x21#8, 0x22#8, 0x40#8, 0x41#8] ↔
      ∃ m : Mnemonic, o = m.opcode := by
  constructor
  · intro h
    simp only [List.cons_append, List.nil_append, List.mem_cons, List.not_mem_nil, or_false] at h
    obtain rfl | rfl | rfl | rfl | rfl | rfl | rfl | rfl | rfl | rfl | rfl := h
    exacts [⟨.cfgprec, rfl⟩, ⟨.cfgacc, rfl⟩, ⟨.pack, rfl⟩, ⟨.unpack, rfl⟩, ⟨.mvin, rfl⟩, ⟨.mvout, rfl⟩,
      ⟨.preload, rfl⟩, ⟨.computePre, rfl⟩, ⟨.computeAcc, rfl⟩, ⟨.fence, rfl⟩, ⟨.flush, rfl⟩]
  · rintro ⟨m, rfl⟩
    cases m <;> decide

end Sys2Proof

namespace Sys2Proof.Machine

/-- A block step on an illegal head of Q is the fault entry ILLEGAL_COMMAND, whatever else the state holds (R89, R241). -/
theorem blockStep_illegal {s : State} {p : Packet} {rest : List Packet} {e : DecodeError} (hrun : s.halted = false)
    (hq : s.queue = p :: rest) (he : decode p = .error e) :
    blockStep s = .next ((s.setQueue rest).faultEntry .illegalCommand p) := by
  rw [blockStep_running hrun hq, runPacket, he]

/-- Settles O3: a listed OPCODE is that of one command, and each listed case is of one format's reserved bits. -/
theorem illegalWordsRaiseIllegalCommand : Obligations.IllegalWordsRaiseIllegalCommand := by
  intro p formatNs op illegal
  have hillegal : illegal ↔ ∃ e, decode p = .error e := by
    rw [exists_decode_eq_error]
    by_cases hassigned : ∃ m : Mnemonic, op = m.opcode
    · obtain ⟨m, hm⟩ := hassigned
      have hm' : opcodeOf p.cmd = m.opcode := hm
      have hmem := mem_assigned_opcodes.2 ⟨m, rfl⟩
      simp only [illegal, formatNs, hm, hm', hmem, Mnemonic.opcode_inj, not_true, false_or, forall_eq']
      cases m <;> simp [Mnemonic.opcode, Mnemonic.reservedFrom, Mnemonic.reservedBits]
    · have hnot := mt mem_assigned_opcodes.1 hassigned
      exact iff_of_true (.inl hnot) fun m hm => absurd ⟨m, hm⟩ hassigned
  refine ⟨hillegal, fun h s rest hrun hq => ?_⟩
  obtain ⟨e, he⟩ := hillegal.1 h
  exact blockStep_illegal hrun hq he

end Sys2Proof.Machine
end

section
/-! The local address operands of the assembler, and the fields of their words (30_encoding R83, R84, R93). -/

namespace Sys2Proof.Machine

/-- The fields of a local address word whose reserved bit is 0: the flags above it are the space and the accumulate bit,
the bits below it the row (R83). -/
theorem decodeLa_flags_append (flags : BitVec 2) (row : BitVec 29) :
    decodeLa (flags ++ 0#1 ++ row) = some
      { space := if flags.getLsbD 1 then .acc else .sp, accum := flags.getLsbD 0, rsv := false, row := row.toNat } := by
  generalize hla : (flags ++ 0#1 ++ row : LocalWord) = la
  have hacc : la.getLsbD 31 = flags.getLsbD 1 := by rw [← hla, BitVec.getLsbD_append, BitVec.getLsbD_append]; rfl
  have haccum : la.getLsbD 30 = flags.getLsbD 0 := by rw [← hla, BitVec.getLsbD_append, BitVec.getLsbD_append]; rfl
  have hrsv : la.getLsbD 29 = false := by rw [← hla, BitVec.getLsbD_append, BitVec.getLsbD_append]; rfl
  have hrow : la.extractLsb' 0 29 = row := by rw [← hla]; exact BitVec.extractLsb'_append_eq_right
  have hne : la ≠ sentinel := by
    rintro rfl
    exact absurd hrsv (by decide)
  simp only [decodeLa, hne, if_false, hacc, haccum, hrsv, hrow]

/-- Two fields side by side as a number. -/
theorem toNat_append_eq_add {w v : Nat} (a : BitVec w) (b : BitVec v) : (a ++ b).toNat = a.toNat * 2 ^ v + b.toNat := by
  rw [BitVec.toNat_append, ← Nat.shiftLeft_add_eq_or_of_lt b.isLt, Nat.shiftLeft_eq]

/-- A row number below 2^29 added to the flags of a local address stands beside them (R83, R93). -/
theorem flags_add_row (flags : BitVec 2) {n : Nat} (h : n < 2 ^ 29) :
    (flags ++ 0#30 : LocalWord) + BitVec.ofNat 32 n = flags ++ 0#1 ++ BitVec.ofNat 29 n := by
  have hflags : flags.toNat < 2 ^ 2 := flags.isLt
  apply BitVec.eq_of_toNat_eq
  simp only [BitVec.toNat_add, toNat_append_eq_add, BitVec.toNat_ofNat]
  omega

/-- The local address that flags and a row number below 2^29 add up to (R83, R93). -/
theorem decodeLa_flags_add (flags : BitVec 2) {n : Nat} (h : n < 2 ^ 29) :
    decodeLa ((flags ++ 0#30 : LocalWord) + BitVec.ofNat 32 n) = some
      { space := if flags.getLsbD 1 then .acc else .sp, accum := flags.getLsbD 0, rsv := false, row := n } := by
  rw [flags_add_row flags h, decodeLa_flags_append, BitVec.toNat_ofNat, Nat.mod_eq_of_lt h]

/-- Settles O5: each word is its two flags and the row number. -/
theorem localOperandsNameTheirRows : Obligations.LocalOperandsNameTheirRows := by
  intro n h
  refine ⟨?_, decodeLa_flags_add 1#2 h, decodeLa_flags_add 2#2 h, decodeLa_flags_add 3#2 h, decodeLa_eq_none.2 rfl⟩
  rw [LocalOperand.word, ← BitVec.zero_add (BitVec.ofNat 32 n)]
  exact decodeLa_flags_add 0#2 h

end Sys2Proof.Machine
end

section
/-! The codec's pure functions (40_codec R100 to R111): a byte bit by bit, a field after a field is set, and a packed sequence
field by field. -/

namespace Sys2Proof.Machine

/-- The widths of the statements are those of the laws (00_scope R6). -/
theorem mem_widths {w : Nat} : w ∈ [1, 2, 4, 8] ↔ w = 1 ∨ w = 2 ∨ w = 4 ∨ w = 8 := by simp

/-! ### One byte (R104, R105) -/

/-- Each bit of a byte after one of its fields is set (R105). -/
theorem fieldSet_getLsbD (byte : Byte) (s w : Nat) {u i : Nat} (hu : u < 2 ^ w) (hi : i < 8) :
    (fieldSet byte s w u).getLsbD i = if s * w ≤ i ∧ i < s * w + w then u.testBit (i - s * w) else byte.getLsbD i := by
  simp only [fieldSet, BitVec.getLsbD_or, BitVec.getLsbD_and, BitVec.getLsbD_not, BitVec.getLsbD_shiftLeft,
    BitVec.getLsbD_ofNat, Nat.testBit_two_pow_sub_one, hi, show i - s * w < 8 by omega, decide_true, Bool.true_and]
  by_cases hlow : i < s * w
  · simp [hlow, show ¬ s * w ≤ i by omega]
  · by_cases hin : i < s * w + w
    · simp [hlow, hin, show s * w ≤ i by omega, show i - s * w < w by omega]
    · have hhigh : w ≤ i - s * w := by omega
      have hbit : u.testBit (i - s * w) = false :=
        Nat.testBit_lt_two_pow (hu.trans_le (Nat.pow_le_pow_right (by decide) hhigh))
      simp [hlow, hin, hbit, show ¬ i - s * w < w by omega]

/-- Each bit of a field (R104). -/
theorem fieldGet_testBit (byte : Byte) (s w i : Nat) :
    (fieldGet byte s w).testBit i = (byte.getLsbD (s * w + i) && decide (i < w)) := by
  simp [fieldGet, Nat.testBit_shiftRight, BitVec.getLsbD, Bool.and_comm]

/-- A field of a byte after that field, or another one, is set (R105). -/
theorem fieldGet_fieldSet (byte : Byte) {s s' w u : Nat} (hu : u < 2 ^ w) (hs' : s' * w + w ≤ 8) :
    fieldGet (fieldSet byte s w u) s' w = if s' = s then u else fieldGet byte s' w := by
  apply Nat.eq_of_testBit_eq
  intro i
  rw [fieldGet_testBit]
  by_cases hi : i < w
  · rw [fieldSet_getLsbD byte s w hu (by omega)]
    obtain hlt | rfl | hgt := Nat.lt_trichotomy s' s
    · have hle : (s' + 1) * w ≤ s * w := Nat.mul_le_mul_right w hlt
      rw [if_neg (by rw [Nat.add_one_mul] at hle; omega), if_neg (by omega), fieldGet_testBit]
    · rw [if_pos (by omega), if_pos rfl, Nat.add_sub_cancel_left]
      simp [hi]
    · have hle : (s + 1) * w ≤ s' * w := Nat.mul_le_mul_right w hgt
      rw [if_neg (by rw [Nat.add_one_mul] at hle; omega), if_neg (by omega), fieldGet_testBit]
  · have hbit : u.testBit i = false :=
      Nat.testBit_lt_two_pow (hu.trans_le (Nat.pow_le_pow_right (by decide) (by omega)))
    split_ifs <;> simp [hi, hbit, fieldGet_testBit]

/-- Settles O7: bit by bit, the mask of R105 clears the slot's bits alone, and `u` has no bit above them. -/
theorem fieldSetReplacesOneSlot : Obligations.FieldSetReplacesOneSlot :=
  fun w _ byte s _ _ hu _ hi => fieldSet_getLsbD byte s w hu hi

/-! ### One value (R100 to R102) -/

/-- The top bit of a field below 2^W says whether it reaches 2^(W-1) (R102). -/
theorem testBit_top_eq {w f : Nat} (hw : w = 1 ∨ w = 2 ∨ w = 4 ∨ w = 8) (hf : f < 2 ^ w) :
    f.testBit (w - 1) = decide (2 ^ (w - 1) ≤ f) := by
  rw [Nat.testBit_eq_decide_div_mod_eq, decide_eq_decide]
  obtain rfl | rfl | rfl | rfl := hw <;> norm_num at hf ⊢ <;> omega

/-- `enc_W` answers a field (R101). -/
theorem enc_lt (w : Nat) (v : Int) : enc w v < 2 ^ w := by
  have hpos : (0 : Int) < 2 ^ w := by positivity
  have hlt := Int.emod_lt_of_pos v hpos
  unfold enc
  zify
  rwa [Int.toNat_of_nonneg (Int.emod_nonneg v hpos.ne')]

/-- `enc_W` inverts `dec_W` on fields (R102). -/
theorem enc_dec {w f : Nat} (hw : w = 1 ∨ w = 2 ∨ w = 4 ∨ w = 8) (hf : f < 2 ^ w) : enc w (dec w f) = f := by
  rw [dec_eq hw hf, enc]
  obtain rfl | rfl | rfl | rfl := hw <;> norm_num at hf ⊢ <;> split_ifs <;> omega

/-- `dec_W` inverts `enc_W` on the values in range (R102). -/
theorem dec_enc {w : Nat} {v : Int} (hw : w = 1 ∨ w = 2 ∨ w = 4 ∨ w = 8) (hlo : -2 ^ (w - 1) ≤ v)
    (hhi : v ≤ 2 ^ (w - 1) - 1) : dec w (enc w v) = v := by
  rw [dec_eq hw (enc_lt w v), enc]
  obtain rfl | rfl | rfl | rfl := hw <;> norm_num at hlo hhi ⊢ <;> split_ifs <;> omega

/-- Settles O8: `dec_eq` is the case split on the top bit, and both inverses follow from it. -/
theorem fieldDecodeInvertsEncode : Obligations.FieldDecodeInvertsEncode := by
  intro w hw
  have hw := mem_widths.1 hw
  refine ⟨fun f hf => ⟨rfl, ?_, enc_dec hw hf⟩, fun v hlo hhi => dec_enc hw hlo hhi⟩
  rw [dec_eq hw hf, testBit_top_eq hw hf]
  by_cases htop : f < 2 ^ (w - 1)
  · simp [htop, Nat.not_le.2 htop]
  · simp [htop, Nat.not_lt.1 htop]

/-- A clamped value is encoded without loss (R100, R102). -/
theorem dec_enc_clamp {w : Nat} (hw : w = 1 ∨ w = 2 ∨ w = 4 ∨ w = 8) (v : Int) : dec w (enc w (clamp w v)) = clamp w v := by
  have hpos : (0 : Int) < 2 ^ (w - 1) := by positivity
  apply dec_enc hw <;> unfold clamp <;> omega

/-! ### A packed sequence (R107, R108) -/

/-- A slot's bits lie in the byte (00_scope R11). -/
theorem slot_bits_le {w : Nat} (hw : w = 1 ∨ w = 2 ∨ w = 4 ∨ w = 8) (j : Nat) : j % slots w * w + w ≤ 8 := by
  have hslot := slot_lt hw j
  obtain rfl | rfl | rfl | rfl := hw <;> simp only [slots] at hslot ⊢ <;> omega

/-- The byte of one of K fields is one of the ceil(K·W/8) bytes (R107). -/
theorem byte_lt_packedLen {w j k : Nat} (hw : w = 1 ∨ w = 2 ∨ w = 4 ∨ w = 8) (hj : j < k) : j / slots w < packedLen k w := by
  obtain rfl | rfl | rfl | rfl := hw <;> simp only [slots, packedLen] <;> omega

/-- Each of the ceil(K·W/8) bytes holds one of the K fields, its slot 0 (R107). -/
theorem slotZero_lt {w b k : Nat} (hw : w = 1 ∨ w = 2 ∨ w = 4 ∨ w = 8) (hb : b < packedLen k w) :
    b * slots w < k ∧ b * slots w / slots w = b := by
  obtain rfl | rfl | rfl | rfl := hw <;> simp only [slots, packedLen] at hb ⊢ <;> omega

/-- Field j of a packed sequence: slot j mod (8/W) of byte j div (8/W) (R107, R108). -/
def seqField (w : Nat) (bytes : List Byte) (j : Nat) : Nat := fieldGet (bytes.getD (j / slots w) 0) (j % slots w) w

/-- `unpack_seq` decodes the fields of the sequence in order (R108). -/
theorem unpackSeq_eq_map (w : Nat) (bytes : List Byte) (k : Nat) :
    unpackSeq w bytes k = (List.range k).map (fun j => dec w (seqField w bytes j)) := rfl

/-- Each value that `unpack_seq` answers (R108). -/
theorem unpackSeq_getD (w : Nat) (bytes : List Byte) {j k : Nat} (hj : j < k) :
    (unpackSeq w bytes k).getD j 0 = dec w (seqField w bytes j) := by
  simp [unpackSeq_eq_map, List.getD_eq_getElem?_getD, hj]

/-- A field of a packed sequence after one field of it is set: two fields of one byte are two slots (R107). -/
theorem seqField_modify {w j u : Nat} (hw : w = 1 ∨ w = 2 ∨ w = 4 ∨ w = 8) (hu : u < 2 ^ w) {bytes : List Byte}
    (hj : j / slots w < bytes.length) (i : Nat) :
    seqField w (bytes.modify (j / slots w) (fun b => fieldSet b (j % slots w) w u)) i
      = if i = j then u else seqField w bytes i := by
  unfold seqField
  simp only [List.getD_eq_getElem?_getD, List.getElem?_modify]
  by_cases hbyte : j / slots w = i / slots w
  · have hslot : i % slots w = j % slots w ↔ i = j :=
      ⟨fun h => by rw [← Nat.div_add_mod i (slots w), ← hbyte, h, Nat.div_add_mod], fun h => by rw [h]⟩
    rw [hbyte] at hj
    simp [hbyte, List.getElem?_eq_getElem hj, fieldGet_fieldSet _ hu (slot_bits_le hw i), hslot]
  · simp [hbyte, show i ≠ j by rintro rfl; exact hbyte rfl]

/-- The fields of `pack_seq` after the first n turns of its loop (R107). -/
theorem seqField_packUpTo {w : Nat} (hw : w = 1 ∨ w = 2 ∨ w = 4 ∨ w = 8) (v : List Int) {n i : Nat} (hn : n ≤ v.length)
    (hi : i < n) : seqField w (packUpTo w v n) i = enc w (clamp w (v.getD i 0)) := by
  induction n with
  | zero => omega
  | succ n ih =>
    have hbyte : n / slots w < (packUpTo w v n).length := by rw [packUpTo_length]; exact byte_lt_packedLen hw hn
    rw [packUpTo, seqField_modify hw (enc_lt _ _) hbyte]
    by_cases hin : i = n
    · rw [if_pos hin, hin]
    · rw [if_neg hin]
      exact ih (by omega) (by omega)

/-- Every field of `pack_seq` decodes to its value, clamped (R107, R111). -/
theorem dec_seqField_packSeq {w : Nat} (hw : w = 1 ∨ w = 2 ∨ w = 4 ∨ w = 8) {v : List Int} {i : Nat} (hi : i < v.length) :
    dec w (seqField w (packSeq w v) i) = clamp w (v.getD i 0) := by
  rw [packSeq, seqField_packUpTo hw v le_rfl hi, dec_enc_clamp hw]

/-- `pack_seq` answers ceil(K·W/8) bytes (R107). -/
theorem packSeq_length (w : Nat) (v : List Int) : (packSeq w v).length = packedLen v.length w := packUpTo_length w v _

/-- Unpacking a packed sequence clamps each value (R111). -/
theorem unpackSeq_packSeq {w : Nat} (hw : w = 1 ∨ w = 2 ∨ w = 4 ∨ w = 8) (v : List Int) :
    unpackSeq w (packSeq w v) v.length = v.map (clamp w) := by
  refine List.ext_getElem (by simp) fun i hi _ => ?_
  have hi : i < v.length := by simpa using hi
  simp [unpackSeq_eq_map, dec_seqField_packSeq hw hi, hi]

/-- K fields that fill their bytes leave no slot unused (R111). -/
theorem packedLen_of_full {k w : Nat} (hw : w = 1 ∨ w = 2 ∨ w = 4 ∨ w = 8) (h : k * w % 8 = 0) :
    packedLen k w = k * w / 8 ∧ packedLen k w * (8 / w) = k := by
  obtain rfl | rfl | rfl | rfl := hw <;> simp only [packedLen] <;> omega

/-- Settles O6: field by field, what `pack_seq` stores decodes to the clamped value; the lengths are arithmetic. -/
theorem codecRoundTripClampsDensely : Obligations.CodecRoundTripClampsDensely := by
  intro w hw
  have hw := mem_widths.1 hw
  refine ⟨fun v => ?_, fun v => ⟨packSeq_length w v, unpackSeq_packSeq hw v, fun h => ?_⟩⟩
  · have hfield := dec_seqField_packSeq hw (v := [v]) (i := 0) (by simp)
    simpa only [seqField, Nat.zero_div, Nat.zero_mod, unpackSigned, List.getD_cons_zero, clamp] using hfield
  · rw [packSeq_length]
    exact packedLen_of_full hw h

end Sys2Proof.Machine
end

section
/-! PACK and UNPACK (40_codec R113 to R115): the checks they share, a packed row as a sequence of fields, and what each
command answers once its operands have passed. -/

namespace Sys2Proof.Machine

/-! ### The shared checks, and the rest of each command -/

/-- The checks that PACK and UNPACK begin with: the count, the source address, the destination address (R113, R114). -/
def codecOperands (s : State) (k : Nat) (arg1 arg2 : ArgWord) (srcs dsts : List (Space × Bool)) :
    Except Cause (LocalAddr × LocalAddr) := do
  require (k ≤ s.params.dim) .countOutOfRange
  let src ← checkLa s.params (laOf arg1) srcs 1
  let dst ← checkLa s.params (laOf arg2) dsts 1
  .ok (src, dst)

/-- The rest of PACK: its source data and its write (R113). -/
def packBody (w k : Nat) (src dst : LocalAddr) (s : State) : Except Cause State := do
  let v ← gather (fun j => readAcc s src.row j) k
  .ok (s.setSp (s.sp.putRow dst.row (fun b => (packSeq w v).getD b 0) (packSeq w v).length))

/-- The elements that UNPACK stores for the values `v` (R114). -/
def unpackedElems (s : State) (dst : LocalAddr) (v : Nat → Int) (k : Nat) : Except Cause (List Int) :=
  gather (fun j => addResident s dst.accum dst.row j (v j)) k

/-- The rest of UNPACK: its source data, its destination data and its write (R114). -/
def unpackBody (w k : Nat) (src dst : LocalAddr) (s : State) : Except Cause State := do
  let bytes ← gather (fun b => readSp s src.row b) (packedLen k w)
  let new ← unpackedElems s dst (fun j => (unpackSeq w bytes k).getD j 0) k
  .ok (s.setAcc (s.acc.putRow dst.row (fun j => new.getD j 0) k))

/-- PACK is its checks and then the rest (R113). -/
theorem runPack_eq (k : BitVec 16) (lw : BitVec 2) (arg1 arg2 : ArgWord) (s : State) :
    runPack k lw arg1 arg2 s =
      codecOperands s k.toNat arg1 arg2 plainAcc plainSp >>= fun o => packBody (widthOfLw lw) k.toNat o.1 o.2 s := by
  simp only [runPack, packBody, codecOperands, bind_assoc, ok_bind]

/-- UNPACK is its checks and then the rest (R114). -/
theorem runUnpack_eq (k : BitVec 16) (lw : BitVec 2) (arg1 arg2 : ArgWord) (s : State) :
    runUnpack k lw arg1 arg2 s =
      codecOperands s k.toNat arg1 arg2 plainSp anyAcc >>= fun o => unpackBody (widthOfLw lw) k.toNat o.1 o.2 s := by
  simp only [runUnpack, unpackBody, unpackedElems, codecOperands, bind_assoc, ok_bind]

section
variable {s : State} {k : Nat} {arg1 arg2 : ArgWord} {srcs dsts : List (Space × Bool)}

/-- A count beyond DIM is the first failure (R113, R114). -/
theorem codecOperands_of_count (hk : s.params.dim < k) :
    codecOperands s k arg1 arg2 srcs dsts = .error .countOutOfRange := by
  rw [codecOperands, require_neg (Nat.not_le.2 hk), error_bind]

/-- A count within DIM leaves the two addresses to check (R113, R114). -/
theorem codecOperands_of_le (hk : k ≤ s.params.dim) :
    codecOperands s k arg1 arg2 srcs dsts =
      checkLa s.params (laOf arg1) srcs 1 >>= fun src =>
        checkLa s.params (laOf arg2) dsts 1 >>= fun dst => .ok (src, dst) := by
  rw [codecOperands, require_pos hk, ok_bind]

/-- With the count within DIM the source address is checked before the destination's, each for legality before its row
(R113, R114, 30_encoding R85). -/
theorem codecOperands_faults (hk : k ≤ s.params.dim) :
    (¬ LegalAddress arg1 srcs → codecOperands s k arg1 arg2 srcs dsts = .error .illegalAddress) ∧
    (LegalAddress arg1 srcs → ¬ RowsInRange s arg1 1 → codecOperands s k arg1 arg2 srcs dsts = .error .rowOutOfRange) ∧
    (LegalAddress arg1 srcs ∧ RowsInRange s arg1 1 → ¬ LegalAddress arg2 dsts →
      codecOperands s k arg1 arg2 srcs dsts = .error .illegalAddress) ∧
    (LegalAddress arg1 srcs ∧ RowsInRange s arg1 1 → LegalAddress arg2 dsts → ¬ RowsInRange s arg2 1 →
      codecOperands s k arg1 arg2 srcs dsts = .error .rowOutOfRange) := by
  rw [codecOperands_of_le hk]
  refine ⟨fun h => ?_, fun h hr => ?_, fun ⟨h, hr⟩ h2 => ?_, fun ⟨h, hr⟩ h2 hr2 => ?_⟩
  · rw [checkLa_of_not_legal h, error_bind]
  · rw [checkLa_of_not_rows h hr, error_bind]
  · obtain ⟨la, hla, -⟩ := checkLa_of_legal h hr
    rw [hla, ok_bind, checkLa_of_not_legal h2, error_bind]
  · obtain ⟨la, hla, -⟩ := checkLa_of_legal h hr
    rw [hla, ok_bind, checkLa_of_not_rows h2 hr2, error_bind]

/-- Operands that name their rows pass with those rows (R113, R114). -/
theorem codecOperands_of_names {space space' : Space} {accum accum' : Bool} {src dst : Nat} (hk : k ≤ s.params.dim)
    (hsrc : NamesRows s arg1 space accum src 1) (hdst : NamesRows s arg2 space' accum' dst 1)
    (hs : (space, accum) ∈ srcs) (hd : (space', accum') ∈ dsts) :
    codecOperands s k arg1 arg2 srcs dsts = .ok (⟨space, accum, false, src⟩, ⟨space', accum', false, dst⟩) := by
  rw [codecOperands_of_le hk, checkLa_of_names hsrc hs, ok_bind, checkLa_of_names hdst hd, ok_bind]

end

/-- UNPACK admits an ACC destination with either accumulate bit (R114). -/
theorem acc_mem_anyAcc (accum : Bool) : (Space.acc, accum) ∈ anyAcc := by
  cases accum <;> decide

section
variable {s : State} {k : BitVec 16} {lw : BitVec 2} {arg1 arg2 : ArgWord} {src dst : Nat}

/-- PACK of operands that name their rows (R113). -/
theorem runPack_of_names (hk : k.toNat ≤ s.params.dim) (hsrc : NamesRows s arg1 .acc false src 1)
    (hdst : NamesRows s arg2 .sp false dst 1) :
    runPack k lw arg1 arg2 s = packBody (widthOfLw lw) k.toNat ⟨.acc, false, false, src⟩ ⟨.sp, false, false, dst⟩ s := by
  rw [runPack_eq, codecOperands_of_names hk hsrc hdst (by decide) (by decide), ok_bind]

/-- UNPACK of operands that name their rows (R114). -/
theorem runUnpack_of_names {accum : Bool} (hk : k.toNat ≤ s.params.dim) (hsrc : NamesRows s arg1 .sp false src 1)
    (hdst : NamesRows s arg2 .acc accum dst 1) :
    runUnpack k lw arg1 arg2 s
      = unpackBody (widthOfLw lw) k.toNat ⟨.sp, false, false, src⟩ ⟨.acc, accum, false, dst⟩ s := by
  rw [runUnpack_eq, codecOperands_of_names hk hsrc hdst (by decide) (acc_mem_anyAcc accum), ok_bind]

end

/-! ### A packed row of SP as a sequence of fields -/

/-- A field of a row whose bytes are those of a sequence (R107, R108). -/
theorem spField_of_bytes {s : State} {r w k : Nat} (hw : w = 1 ∨ w = 2 ∨ w = 4 ∨ w = 8) {bytes : List Byte}
    (h : ∀ b < packedLen k w, s.spByte r b = some (bytes.getD b 0)) {j : Nat} (hj : j < k) :
    spField s r w j = some (dec w (seqField w bytes j)) := by
  rw [spField, h _ (byte_lt_packedLen hw hj)]
  rfl

/-- A row whose first K fields are defined has its ceil(K·W/8) bytes defined, and they unpack to those fields (R108). -/
theorem exists_bytes_of_spField {s : State} {r w k : Nat} (hw : w = 1 ∨ w = 2 ∨ w = 4 ∨ w = 8) {v : Nat → Int}
    (h : ∀ j < k, spField s r w j = some (v j)) :
    ∃ bytes, gather (fun b => readSp s r b) (packedLen k w) = .ok bytes ∧
      ∀ j < k, (unpackSeq w bytes k).getD j 0 = v j := by
  have hdef : ∀ b < packedLen k w, ∃ byte, s.spByte r b = some byte := fun b hb => by
    obtain ⟨hj, hbyte⟩ := slotZero_lt hw hb
    have hfield := h _ hj
    rw [spField, hbyte, Option.map_eq_some_iff] at hfield
    exact hfield.imp fun _ => And.left
  choose! byte hbyte using hdef
  refine ⟨(List.range (packedLen k w)).map byte, gather_of_forall fun b hb => readSp_ok.2 (hbyte b hb), fun j hj => ?_⟩
  have hbytes : ∀ b < packedLen k w, s.spByte r b = some (((List.range (packedLen k w)).map byte).getD b 0) :=
    fun b hb => by simp [hbyte b hb, List.getD_eq_getElem?_getD, hb]
  rw [unpackSeq_getD w _ hj, ← Option.some_inj, ← spField_of_bytes hw hbytes hj, h j hj]

/-! ### The data checks -/

/-- A collection one of whose elements fails, and none with another cause, fails with that cause (60_exceptions R222). -/
theorem gather_eq_error {α : Type} {f : Nat → Except Cause α} {n j : Nat} {c : Cause} (hj : j < n) (h : f j = .error c)
    (honly : ∀ i e, f i = .error e → e = c) : gather f n = .error c := by
  cases hg : gather f n with
  | ok xs =>
    obtain ⟨hl, hf⟩ := gather_ok.1 hg
    have := hf j (by omega)
    simp [h] at this
  | error e =>
    obtain ⟨i, -, hi, -⟩ := gather_error.1 hg
    rw [honly i e hi]

/-- PACK of an undef source element fails with UNINIT_READ (R113, 10_state R27). -/
theorem packBody_of_undef {s : State} {w k j : Nat} {src : LocalAddr} (dst : LocalAddr) (hj : j < k)
    (h : s.accElem src.row j = none) : packBody w k src dst s = .error .uninitRead := by
  rw [packBody, gather_eq_error hj (readAcc_error.2 ⟨h, rfl⟩) fun _ _ he => (readAcc_error.1 he).2, error_bind]

/-- UNPACK of an undef source byte fails with UNINIT_READ (R114, 10_state R27). -/
theorem unpackBody_of_undef {s : State} {w k b : Nat} {src : LocalAddr} (dst : LocalAddr) (hb : b < packedLen k w)
    (h : s.spByte src.row b = none) : unpackBody w k src dst s = .error .uninitRead := by
  rw [unpackBody, gather_eq_error hb (readSp_error.2 ⟨h, rfl⟩) fun _ _ he => (readSp_error.1 he).2, error_bind]

/-- UNPACK of a row whose first K fields are `v` goes on with those values (R114). -/
theorem unpackBody_of_spField {s : State} {w k : Nat} {src dst : LocalAddr} (hw : w = 1 ∨ w = 2 ∨ w = 4 ∨ w = 8)
    {v : Nat → Int} (h : ∀ j < k, spField s src.row w j = some (v j)) :
    unpackBody w k src dst s = unpackedElems s dst v k >>= fun new =>
      .ok (s.setAcc (s.acc.putRow dst.row (fun j => new.getD j 0) k)) := by
  obtain ⟨bytes, hbytes, hv⟩ := exists_bytes_of_spField hw h
  have hvals : unpackedElems s dst (fun j => (unpackSeq w bytes k).getD j 0) k = unpackedElems s dst v k :=
    gather_congr fun j hj => congrArg (addResident s dst.accum dst.row j) (hv j hj)
  rw [unpackBody, hbytes, ok_bind, hvals]

/-- The first destination element that UNPACK cannot store decides the cause (R114, 60_exceptions R222). -/
theorem unpackedElems_eq_error {s : State} {dst : LocalAddr} {v : Nat → Int} {k j₀ : Nat} {c : Cause} (hj₀ : j₀ < k)
    (hc : addResident s true dst.row j₀ (v j₀) = .error c) (haccum : dst.accum = true)
    (hbefore : ∀ j < j₀, ∃ cur, s.accElem dst.row j = some cur ∧ inAcc s.params (cur + v j) = true) :
    unpackedElems s dst v k = .error c := by
  rw [unpackedElems, haccum]
  refine gather_error.2 ⟨j₀, hj₀, hc, fun j hj => ?_⟩
  obtain ⟨cur, hcur, hin⟩ := hbefore j hj
  exact ⟨_, addResident_ok.2 (.inr ⟨rfl, cur, hcur, hin, rfl⟩)⟩

/-- Adding onto an undef element fails with UNINIT_READ (10_state R27). -/
theorem addResident_of_undef {s : State} {r j : Nat} (v : Int) (h : s.accElem r j = none) :
    addResident s true r j v = .error .uninitRead := by
  rw [addResident, if_pos rfl, readAcc_error.2 ⟨h, rfl⟩, error_bind]

/-- A sum out of the accumulator's range fails with ACC_OVERFLOW (41_arithmetic R131). -/
theorem addResident_of_overflow {s : State} {r j : Nat} {v cur : Int} (h : s.accElem r j = some cur)
    (hout : inAcc s.params (cur + v) = false) : addResident s true r j v = .error .accOverflow := by
  rw [addResident, if_pos rfl, readAcc_ok.2 h, ok_bind, require_neg (by simp [hout]), error_bind]

/-! ### What the two commands write -/

/-- SP after the start of a row is stored in it. -/
theorem spByte_setSp_putRow (s : State) (dst : Nat) (f : Nat → Byte) (n r b : Nat) :
    (s.setSp (s.sp.putRow dst f n)).spByte r b = if r = dst ∧ b < n then some (f b) else s.spByte r b := by
  simp only [State.spByte, State.setSp_sp, CellStore.cell_putRow, eq_comm (a := dst)]

/-- ACC after the start of a row is stored in it. -/
theorem accElem_setAcc_putRow (s : State) (dst : Nat) (f : Nat → Int) (n r j : Nat) :
    (s.setAcc (s.acc.putRow dst f n)).accElem r j = if r = dst ∧ j < n then some (f j) else s.accElem r j := by
  simp only [State.accElem, State.setAcc_acc, CellStore.cell_putRow, eq_comm (a := dst)]

/-- PACK of defined elements stores the ceil(K·W/8) bytes of their `pack_seq` (R113). -/
theorem packBody_of_accElem {s : State} {w k : Nat} {src dst : LocalAddr} {x : Nat → Int}
    (h : ∀ j < k, s.accElem src.row j = some (x j)) :
    packBody w k src dst s = .ok
      (s.setSp (s.sp.putRow dst.row (fun b => (packSeq w ((List.range k).map x)).getD b 0) (packedLen k w))) := by
  rw [packBody, gather_of_forall fun j hj => readAcc_ok.2 (h j hj), ok_bind, packSeq_length, List.length_map,
    List.length_range]

/-- A row that holds a packed sequence decodes, field by field, to the clamped values (R107, R111). -/
theorem spField_of_packSeq {s : State} {r w k : Nat} (hw : w = 1 ∨ w = 2 ∨ w = 4 ∨ w = 8) {x : Nat → Int}
    (h : ∀ b < packedLen k w, s.spByte r b = some ((packSeq w ((List.range k).map x)).getD b 0)) {j : Nat} (hj : j < k) :
    spField s r w j = some (clamp w (x j)) := by
  rw [spField_of_bytes hw h hj, dec_seqField_packSeq hw (by simpa using hj)]
  simp [List.getD_eq_getElem?_getD, hj]

/-- UNPACK's elements when each can be stored: the old value, 0 without the accumulate bit, plus the field (R114). -/
theorem unpackedElems_of_inRange {s : State} {dst : LocalAddr} {v old : Nat → Int} {k : Nat}
    (hplain : dst.accum = false → ∀ j, old j = 0)
    (haccum : dst.accum = true → ∀ j < k, s.accElem dst.row j = some (old j) ∧ inAcc s.params (old j + v j) = true) :
    unpackedElems s dst v k = .ok ((List.range k).map fun j => old j + v j) := by
  refine gather_of_forall fun j hj => addResident_ok.2 ?_
  cases ha : dst.accum with
  | false => exact .inl ⟨rfl, by rw [hplain ha, zero_add]⟩
  | true => exact .inr ⟨rfl, old j, (haccum ha j hj).1, (haccum ha j hj).2, rfl⟩

/-! ### The obligations -/

/-- Settles O35: the row holds the bytes of `pack_seq`, whose fields decode to the clamped elements. -/
theorem packWritesPackedRow : Obligations.PackWritesPackedRow := by
  intro s k lw arg1 arg2 src dst x hk hsrc hdst hx
  have hrun := (runPack_of_names (lw := lw) hk hsrc hdst).trans (packBody_of_accElem hx)
  have hbyte := spByte_setSp_putRow s dst
    (fun b => (packSeq (widthOfLw lw) ((List.range k.toNat).map x)).getD b 0) (packedLen k.toNat (widthOfLw lw))
  exact ⟨_, exec_of_ok hrun, rfl, hbyte, fun j hj =>
    spField_of_packSeq (widthOfLw_cases lw) (fun b hb => (hbyte dst b).trans (if_pos ⟨rfl, hb⟩)) hj⟩

/-- Settles O36: the packed bytes unpack to the fields, and each element stored is one that `addResident` answers. -/
theorem unpackWritesElements : Obligations.UnpackWritesElements := by
  intro s k lw arg1 arg2 src dst accum v old hk hsrc hdst hv hplain haccum
  have hrun : runUnpack k lw arg1 arg2 s = .ok
      (s.setAcc (s.acc.putRow dst (fun j => ((List.range k.toNat).map fun j => old j + v j).getD j 0) k.toNat)) := by
    rw [runUnpack_of_names hk hsrc hdst, unpackBody_of_spField (widthOfLw_cases lw) hv,
      unpackedElems_of_inRange hplain haccum, ok_bind]
  refine ⟨_, exec_of_ok hrun, rfl, fun r j => ?_⟩
  rw [accElem_setAcc_putRow]
  split_ifs with h
  · simp [List.getD_eq_getElem?_getD, h.2]
  · rfl

/-- Settles O37: UNPACK reads back the row that PACK wrote, whose fields are the clamped elements. -/
theorem packThenUnpackClamps : Obligations.PackThenUnpackClamps := by
  intro s k lw acc1 sp acc2 r row r' x hk hsrc hrow hdst hx
  obtain ⟨t, ht, hframe, -, hfield⟩ := packWritesPackedRow s k lw acc1 sp r row x hk hsrc hrow hx
  have hparams : t.params = s.params := by rw [hframe]
  obtain ⟨u, hu, -, helem⟩ := unpackWritesElements t k lw sp acc2 row r' false
    (fun j => clamp (2 ^ lw.toNat) (x j)) (fun _ => 0) (hparams ▸ hk) (by rwa [NamesRows, hparams])
    (by rwa [NamesRows, hparams]) hfield (fun _ _ => rfl) (by simp)
  exact ⟨t, u, ht, hu, fun j hj => by rw [helem, if_pos ⟨rfl, hj⟩, zero_add]⟩

/-- Settles O38: the count and the addresses fail in the checks the two commands share, the data in the rest of each. -/
theorem packUnpackFaultsInOrder : Obligations.PackUnpackFaultsInOrder := by
  intro s k lw arg1 arg2 pack unpack packOk unpackOk accs
  have hpack : ∀ c, runPack k lw arg1 arg2 s = .error c → pack c := fun c => faultsWith_of_run (i := .pack k lw arg1 arg2)
  have hunpack : ∀ c, runUnpack k lw arg1 arg2 s = .error c → unpack c :=
    fun c => faultsWith_of_run (i := .unpack k lw arg1 arg2)
  have hpackOps : ∀ c, codecOperands s k.toNat arg1 arg2 plainAcc plainSp = .error c → pack c :=
    fun c h => hpack c (by rw [runPack_eq, h, error_bind])
  have hunpackOps : ∀ c, codecOperands s k.toNat arg1 arg2 plainSp anyAcc = .error c → unpack c :=
    fun c h => hunpack c (by rw [runUnpack_eq, h, error_bind])
  refine ⟨fun hk => ⟨hpackOps _ (codecOperands_of_count hk), hunpackOps _ (codecOperands_of_count hk)⟩, fun hk => ?_⟩
  obtain ⟨hp1, hp2, hp3, hp4⟩ := codecOperands_faults (arg1 := arg1) (arg2 := arg2) (srcs := plainAcc) (dsts := plainSp) hk
  obtain ⟨hu1, hu2, hu3, hu4⟩ := codecOperands_faults (arg1 := arg1) (arg2 := arg2) (srcs := plainSp) (dsts := anyAcc) hk
  refine ⟨fun h => hpackOps _ (hp1 h), fun h hr => hpackOps _ (hp2 h hr), fun h h2 => hpackOps _ (hp3 h h2),
    fun h h2 hr => hpackOps _ (hp4 h h2 hr), ?packData,
    fun h => hunpackOps _ (hu1 h), fun h hr => hunpackOps _ (hu2 h hr), fun h h2 => hunpackOps _ (hu3 h h2),
    fun h h2 hr => hunpackOps _ (hu4 h h2 hr), ?unpackSource, ?unpackDest⟩
  case packData =>
    intro src dst j hsrc hdst hj hundef
    exact hpack _ ((runPack_of_names hk hsrc hdst).trans (packBody_of_undef _ hj hundef))
  case unpackSource =>
    intro src dst accum b hsrc hdst hb hundef
    exact hunpack _ ((runUnpack_of_names hk hsrc hdst).trans (unpackBody_of_undef _ hb hundef))
  case unpackDest =>
    intro src dst v j₀ hsrc hdst hv hj₀ hbefore
    have helem : ∀ c, addResident s true dst j₀ (v j₀) = .error c → unpack c := fun c hc =>
      hunpack c (by rw [runUnpack_of_names hk hsrc hdst, unpackBody_of_spField (widthOfLw_cases lw) hv,
        unpackedElems_eq_error hj₀ hc rfl hbefore, error_bind])
    exact ⟨fun h => helem _ (addResident_of_undef _ h), fun cur h hout => helem _ (addResident_of_overflow h hout)⟩

end Sys2Proof.Machine
end

section
/-! The reference arithmetic (41_arithmetic R131 to R145): the packed policy modulo 2^W, the quantization pipeline, and the
bounds of a step product. -/

namespace Sys2Proof.Machine

/-! ### The step product and the packed policy's loop (R132, R135, R136) -/

/-- The step product of no elements is the bias (R132). -/
@[simp] theorem stepProduct_zero (a b d : Nat → Nat → Int) (i j : Nat) : stepProduct 0 a b d i j = d i j := by
  simp [stepProduct]

/-- One more element adds its product to the step product (R132). -/
theorem stepProduct_succ (n : Nat) (a b d : Nat → Nat → Int) (i j : Nat) :
    stepProduct (n + 1) a b d i j = a i n * b n j + stepProduct n a b d i j := by
  unfold stepProduct
  rw [Finset.sum_range_succ]
  ring

/-- `wrap_W` is `dec_W` after `enc_W` (R101 to R103). -/
theorem wrap_eq_dec_enc (w : Nat) (x : Int) : wrap w x = dec w (enc w x) := rfl

/-- Two values have one field exactly when they agree modulo 2^W (R101). -/
theorem enc_eq_enc_iff {w : Nat} {x y : Int} : enc w x = enc w y ↔ x ≡ y [ZMOD 2 ^ w] := by
  have hpos : (2 : Int) ^ w ≠ 0 := by positivity
  have hx := Int.emod_nonneg x hpos
  have hy := Int.emod_nonneg y hpos
  unfold enc Int.ModEq
  omega

/-- `wrap_W` changes a value by a multiple of 2^W only (R103). -/
theorem wrap_modEq {w : Nat} (hw : w = 1 ∨ w = 2 ∨ w = 4 ∨ w = 8) (x : Int) : wrap w x ≡ x [ZMOD 2 ^ w] :=
  enc_eq_enc_iff.1 (enc_dec hw (enc_lt w x))

/-- `wrap_W` of a summand drops out under `wrap_W` of the sum (R136). -/
theorem wrap_add_wrap {w : Nat} (hw : w = 1 ∨ w = 2 ∨ w = 4 ∨ w = 8) (x y : Int) :
    wrap w (x + wrap w y) = wrap w (x + y) := by
  rw [wrap_eq_dec_enc w (x + wrap w y), wrap_eq_dec_enc w (x + y), enc_eq_enc_iff.2 ((wrap_modEq hw y).add_left x)]

/-- Settles O9, by induction on the steps of the loop: each step's inner wrap drops out under its outer one. -/
theorem packedLoopIsWrappedProduct : Obligations.PackedLoopIsWrappedProduct := by
  intro w hw a b d cur i j n
  induction n with
  | zero => rw [packedCell, stepProduct_zero]
  | succ n ih =>
    rw [packedCell, ih, wrap_add_wrap (mem_widths.1 hw), stepProduct_succ]
    congr 1
    ring

/-! ### Bounds of a step product (R145) -/

/-- A product of two elements of at most eight bits (R145). -/
theorem mul_bounds_of_byte {x y : Int} (hx : -128 ≤ x ∧ x ≤ 127) (hy : -128 ≤ y ∧ y ≤ 127) :
    -16256 ≤ x * y ∧ x * y ≤ 16384 := by
  obtain ⟨hx0, hx1⟩ := hx
  obtain ⟨hy0, hy1⟩ := hy
  constructor
  · linarith [mul_nonneg (sub_nonneg.2 hx0) (sub_nonneg.2 hy0), mul_nonneg (sub_nonneg.2 hx1) (sub_nonneg.2 hy1)]
  · linarith [mul_nonneg (sub_nonneg.2 hx0) (sub_nonneg.2 hy1), mul_nonneg (sub_nonneg.2 hx1) (sub_nonneg.2 hy0)]

/-- A step product whose products and bias are bounded (R132, R145). -/
theorem abs_stepProduct_le {a b d : Nat → Nat → Int} {i j : Nat} {m c : Int} (hprod : ∀ k, |a i k * b k j| ≤ m)
    (hbias : |d i j| ≤ c) (n : Nat) : |stepProduct n a b d i j| ≤ n * m + c := by
  induction n with
  | zero => simpa using hbias
  | succ n ih =>
    rw [stepProduct_succ]
    calc |a i n * b n j + stepProduct n a b d i j|
        ≤ |a i n * b n j| + |stepProduct n a b d i j| := abs_add_le _ _
      _ ≤ m + (n * m + c) := add_le_add (hprod n) ih
      _ = (n + 1 : Nat) * m + c := by push_cast; ring

/-- A value is in the accumulator's range when a bound of its magnitude is (R131). -/
theorem inAcc_of_abs_le {p : Params} {x m : Int} (hx : |x| ≤ m) (hm : ∀ n, p.accBits = some n → m ≤ 2 ^ (n - 1) - 1) :
    inAcc p x = true := by
  obtain ⟨hlo, hhi⟩ := abs_le.1 hx
  refine inAcc_iff.2 fun n hn => ?_
  have hmn := hm n hn
  constructor <;> linarith

/-- Settles O12: the products bound the sum, and the sum's bound is what the two conditions compare with the range. -/
theorem stepProductBounded : Obligations.StepProductBounded := by
  intro p a b d ha hb hd i j
  have hprod : ∀ k, -16256 ≤ a i k * b k j ∧ a i k * b k j ≤ 16384 := fun k => mul_bounds_of_byte (ha i k) (hb k j)
  have hsum : |stepProduct p.dim a b d i j| ≤ p.dim * 16384 + 128 :=
    abs_stepProduct_le (fun k => abs_le.2 ⟨by linarith [hprod k], (hprod k).2⟩)
      (abs_le.2 ⟨(hd i j).1, by linarith [hd i j]⟩) p.dim
  refine ⟨hprod, hsum, inAcc_of_abs_le hsum, fun hbits hdim => inAcc_of_abs_le hsum fun n hn => ?_⟩
  obtain rfl : 32 = n := Option.some_inj.1 (hbits.symm.trans hn)
  norm_num
  omega

/-! ### Quantization (R139 to R143) -/

/-- The model's shift is the floor of the quotient (00_scope R8, R139). -/
theorem floor_div_two_pow (x : Int) (sh : Nat) : ⌊(x : ℚ) / 2 ^ sh⌋ = x / 2 ^ sh := by
  exact_mod_cast Rat.floor_intCast_div_natCast x (2 ^ sh)

/-- A value of magnitude within 2^s shifts to its sign (R140). -/
theorem ediv_two_pow_eq_sign {x : Int} {sh : Nat} (hlo : -2 ^ sh ≤ x) (hhi : x < 2 ^ sh) :
    x / 2 ^ sh = if 0 ≤ x then 0 else -1 := by
  have hpos : (0 : Int) < 2 ^ sh := by positivity
  split_ifs with hx
  · exact Int.ediv_eq_zero_of_lt hx hhi
  · exact le_antisymm (Int.le_sub_one_of_lt (Int.ediv_neg_of_neg_of_pos (not_le.1 hx) hpos))
      ((Int.le_ediv_iff_mul_le hpos).2 (by linarith))

/-- A value in the accumulator's range is within 2^s for every s beyond ACC_BITS (R131, R140). -/
theorem inAcc_within_two_pow {p : Params} {x : Int} {b sh : Nat} (hb : p.accBits = some b) (hx : inAcc p x = true)
    (hsh : b < sh) : -2 ^ sh ≤ x ∧ x < 2 ^ sh := by
  obtain ⟨hlo, hhi⟩ := inAcc_iff.1 hx b hb
  have hpow : (2 : Int) ^ (b - 1) ≤ 2 ^ sh := pow_le_pow_right₀ (by norm_num) (by omega)
  constructor <;> linarith

/-- `clamp_W` answers a value in the W range (R100). -/
theorem clamp_range (w : Nat) (x : Int) : -2 ^ (w - 1) ≤ clamp w x ∧ clamp w x ≤ 2 ^ (w - 1) - 1 := by
  have hpos : (0 : Int) < 2 ^ (w - 1) := by positivity
  exact ⟨le_max_left _ _, max_le (by linarith) (min_le_left _ _)⟩

/-- `clamp_W` of a value that is not negative is not negative (R100). -/
theorem clamp_nonneg (w : Nat) {x : Int} (hx : 0 ≤ x) : 0 ≤ clamp w x := by
  have hpos : (0 : Int) < 2 ^ (w - 1) := by positivity
  exact le_max_of_le_right (le_min (by linarith) hx)

/-- `quantize` without ReLU clamps the shifted value (R139). -/
theorem quantize_false (x : Int) (sh w : Nat) : quantize x sh false w = clamp w (x / 2 ^ sh) := rfl

/-- `quantize` with ReLU clamps the rectified shifted value (R139). -/
theorem quantize_true (x : Int) (sh w : Nat) : quantize x sh true w = clamp w (max 0 (x / 2 ^ sh)) := rfl

/-- The range of `quantize` with ReLU (R143). -/
theorem quantize_true_range (x : Int) (sh w : Nat) :
    0 ≤ quantize x sh true w ∧ quantize x sh true w ≤ 2 ^ (w - 1) - 1 :=
  quantize_true x sh w ▸ ⟨clamp_nonneg w (le_max_left _ _), (clamp_range w _).2⟩

/-- Settles O10: the floor is the model's shift, and a shift beyond the magnitude leaves the sign. -/
theorem quantizeFloorsThenClamps : Obligations.QuantizeFloorsThenClamps := by
  intro w hw x sh
  have hpos : (0 : Int) < 2 ^ sh := by positivity
  simp only [floor_div_two_pow]
  refine ⟨fun relu => ?formula, fun hx => Int.ediv_neg_of_neg_of_pos hx hpos, ?minusOne, fun p b hb hx hsh => ?largeShift,
    ?floorExample, ?reluExample⟩
  case formula =>
    cases relu with
    | false => exact quantize_false x sh w
    | true => exact quantize_true x sh w
  case minusOne => simpa using ediv_two_pow_eq_sign (x := -1) (sh := sh) (by linarith) (by linarith)
  case largeShift =>
    obtain ⟨hlo, hhi⟩ := inAcc_within_two_pow hb hx hsh
    exact ediv_two_pow_eq_sign hlo hhi
  case floorExample => exact_mod_cast floor_div_two_pow (-17) 2
  case reluExample => obtain rfl | rfl | rfl | rfl := mem_widths.1 hw <;> decide

/-- Settles O11: a shift by 0 is the identity, and the ranges are those of the clamp; for W = 1 they leave only 0. -/
theorem quantizeRange : Obligations.QuantizeRange := by
  intro w _ x sh
  refine ⟨by simp [quantize_false], quantize_true_range x sh w, clamp_range w _, ?_⟩
  obtain ⟨hlo, hhi⟩ := quantize_true_range x sh 1
  exact le_antisymm hhi hlo

end Sys2Proof.Machine
end

section
/-! The configuration commands (42_config R160 to R162): what a legal and what an illegal CFGPREC does, what CFGACC does, and
that the four configuration registers change in no other way but by reset. -/

namespace Sys2Proof.Machine

/-! ### CFGPREC and CFGACC (O13, O14, O15) -/

/-- A LOG2W that R160 admits is kept whole in the register's two bits (10_state R29). -/
theorem width_of_log2w_le {log2w : BitVec 3} (h : log2w.toNat ≤ 3) (valid : Bool) (rowWidth : BitVec 16) :
    (⟨valid, log2w.setWidth 2, rowWidth⟩ : PrecisionReg).width = 2 ^ log2w.toNat := by
  have hkept : (log2w.setWidth 2).toNat = log2w.toNat := by
    rw [BitVec.toNat_setWidth]; omega
  rw [PrecisionReg.width, hkept]

/-- CFGPREC of legal values writes its role's register (42_config R160). -/
theorem exec_cfgprec_of_legal {s : State} {role : Role} {log2w : BitVec 3} {arg1 : ArgWord} (arg2 : ArgWord)
    (hrole : role ≠ .reserved) (hlog : log2w.toNat ≤ 3) (hrow : (rowWidthOf arg1).toNat = s.params.dim)
    (hbytes : s.params.dim * 2 ^ log2w.toNat % 8 = 0) :
    exec (.cfgprec role log2w arg1 arg2) s = .next (s.setCfg role ⟨true, log2w.setWidth 2, rowWidthOf arg1⟩) :=
  exec_of_ok (runCfgprec_ok.2 ⟨hrole, hlog, hrow, hbytes, rfl⟩)

/-- Settles O13: each role's register is the one that R160 writes, at the width its two bits of LOG2W keep. -/
theorem cfgprecSetsItsRole : Obligations.CfgprecSetsItsRole := by
  intro s log2w arg1 arg2 hlog hrow hbytes
  exact ⟨width_of_log2w_le hlog _ _, exec_cfgprec_of_legal arg2 (by decide) hlog hrow hbytes,
    exec_cfgprec_of_legal arg2 (by decide) hlog hrow hbytes, exec_cfgprec_of_legal arg2 (by decide) hlog hrow hbytes⟩

/-- A value that R160 does not admit fails one of the three checks, and all three raise CONFIG_VIOLATION (42_config R160). -/
theorem runCfgprec_violation {s : State} {role : Role} {log2w : BitVec 3} {arg1 : ArgWord} (hrole : role ≠ .reserved)
    (h : 3 < log2w.toNat ∨ (rowWidthOf arg1).toNat ≠ s.params.dim ∨ s.params.dim * 2 ^ log2w.toNat % 8 ≠ 0) :
    runCfgprec role log2w arg1 s = .error .configViolation := by
  rw [runCfgprec, require_pos hrole, ok_bind]
  by_cases hlog : log2w.toNat ≤ 3
  · rw [require_pos hlog, ok_bind]
    by_cases hrow : (rowWidthOf arg1).toNat = s.params.dim
    · have hbytes : s.params.dim * 2 ^ log2w.toNat % 8 ≠ 0 :=
        (h.resolve_left hlog.not_gt).resolve_left (not_not_intro hrow)
      rw [require_pos hrow, ok_bind, require_neg hbytes, error_bind]
    · rw [require_neg hrow, error_bind]
  · rw [require_neg hlog, error_bind]

/-- Settles O14: whichever check fails first, the run fails with CONFIG_VIOLATION. -/
theorem cfgprecViolationFaults : Obligations.CfgprecViolationFaults :=
  fun _ _ _ _ _ hrole h => faultsWith_of_run (runCfgprec_violation hrole h)

/-- Settles O15: CFGACC checks nothing and writes CFG_Q. -/
theorem cfgaccSetsQuantization : Obligations.CfgaccSetsQuantization :=
  fun _ _ _ _ _ _ => exec_of_ok rfl

/-! ### What changes the configuration (O44) -/

/-- `t` has the configuration registers of `s` (10_state R29, R30). -/
abbrev ConfigKept (s t : State) : Prop :=
  t.cfgLd = s.cfgLd ∧ t.cfgEx = s.cfgEx ∧ t.cfgSt = s.cfgSt ∧ t.cfgQ = s.cfgQ

/-- A completed command other than CFGACC keeps CFG_Q (42_config R162). -/
theorem runOf_quantization {i : Instr} {s t : State} (h : runOf i s = .ok t) :
    (∃ shift relu policy a b, i = .cfgacc shift relu policy a b) ∨ t.cfgQ = s.cfgQ := by
  have hw := runOf_writesOnly h
  cases i with
  | cfgacc shift relu policy a b => exact .inl ⟨shift, relu, policy, a, b, rfl⟩
  | mvin | computePre | computeAcc =>
    obtain ⟨e, -⟩ | ⟨e, -⟩ := hw <;> rw [e] <;> exact .inr rfl
  | cfgprec | mvout | preload | pack | unpack | fence | flush =>
    replace hw : t = _ := hw
    rw [hw]; exact .inr rfl

/-- A host action other than reset writes MEM and control state alone (60_exceptions R240). -/
theorem takeAction_frame {a : HostAction} {s t : State} (h : takeAction a s = .next t) :
    t = (s.setMem t.mem).withControl t ∨ a = .reset := by
  have hpush : ∀ p, s.pushPacket p = (s.setMem (s.pushPacket p).mem).withControl (s.pushPacket p) := fun p => by
    rw [pushPacket_eq]; rfl
  obtain ⟨p, -, rfl⟩ | ⟨addr, -, -, rfl⟩ | ⟨addr, v, -, -, rfl⟩ | ⟨-, rfl⟩ | ⟨-, rfl⟩ | ⟨-, rfl⟩ | ⟨-, rfl⟩ | ⟨rfl, -⟩ :=
    takeAction_cases h
  · exact .inl (hpush p)
  · exact .inl rfl
  · exact .inl rfl
  · exact .inl rfl
  · exact .inl rfl
  · exact .inl rfl
  · exact .inl (congrArg State.startWait (hpush fencePacket))
  · exact .inr rfl

/-- A block step keeps the configuration, or its command, which left Q, was a CFGPREC or a CFGACC (42_config R162). -/
theorem blockStep_config {s t : State} (h : blockStep s = .next t) :
    ConfigKept s t ∨
      (∃ p rest role log2w a b, s.queue = p :: rest ∧ t.queue = rest ∧ decode p = .ok (.cfgprec role log2w a b)) ∨
      ∃ p rest shift relu policy a b,
        s.queue = p :: rest ∧ t.queue = rest ∧ decode p = .ok (.cfgacc shift relu policy a b) := by
  obtain ⟨-, rfl⟩ | ⟨p, rest, -, hq, ⟨e, -, rfl⟩ | ⟨i, hd, hr⟩ | ⟨i, c, -, -, -, rfl⟩⟩ := blockStep_cases h
  · exact .inl ⟨rfl, rfl, rfl, rfl⟩
  · exact .inl ⟨rfl, rfl, rfl, rfl⟩
  · have hqueue : t.queue = rest := by rw [runOf_frame hr]; rfl
    obtain ⟨role, log2w, a, b, rfl⟩ | ⟨hld, hex, hst⟩ := runOf_precision hr
    · exact .inr (.inl ⟨p, rest, role, log2w, a, b, hq, hqueue, hd⟩)
    obtain ⟨shift, relu, policy, a, b, rfl⟩ | hcfgQ := runOf_quantization hr
    · exact .inr (.inr ⟨p, rest, shift, relu, policy, a, b, hq, hqueue, hd⟩)
    · exact .inl ⟨hld, hex, hst, hcfgQ⟩
  · exact .inl ⟨rfl, rfl, rfl, rfl⟩

/-- Settles O44: the only commands that write a configuration register are CFGPREC and CFGACC, and the only host action
that does is reset. -/
theorem configurationLastsUntilChanged : Obligations.ConfigurationLastsUntilChanged := by
  intro s t hs
  obtain ⟨-, rfl⟩ | ⟨-, ⟨-, hb⟩ | ⟨rest, -, hb⟩ | ⟨a, rest, -, -, hb⟩ | ⟨a, rest, he, -, ha⟩⟩ := step_cases hs
  · exact .inl ⟨rfl, rfl, rfl, rfl⟩
  · exact (blockStep_config hb).imp_right (.imp_right .inl)
  · exact (blockStep_config hb).imp_right (.imp_right .inl)
  · exact (blockStep_config hb).imp_right (.imp_right .inl)
  · obtain hkeep | rfl := takeAction_frame ha
    · rw [hkeep]; exact .inl ⟨rfl, rfl, rfl, rfl⟩
    · exact .inr (.inr (.inr ⟨rest, he⟩))

end Sys2Proof.Machine
end

section
/-! The pairing of weight and destination (43_matmul R174), and PRELOAD (R171): the checks of its two operands, each said
once, and what it answers once they have passed. -/

namespace Sys2Proof.Machine

/-! ### What the matmul commands do to the sequencing bits -/

/-- A completed command keeps DEST and both pending bits, or leaves pending a destination it has checked, as PRELOAD does,
or leaves nothing pending, as the COMPUTEs do (43_matmul R171 to R174). -/
theorem runOf_sequencing {i : Instr} {s t : State} (h : runOf i s = .ok t) :
    (t.pendwValid = s.pendwValid ∧ t.destValid = s.destValid ∧ t.dest = s.dest) ∨
      (s.destValid = false ∧ t.destValid = true ∧ checkPreloadDest s t.dest = .ok ()) ∨
      (t.destValid = false ∧ t.pendwValid = false) := by
  have hw := runOf_writesOnly h
  cases i with
  | preload arg1 arg2 =>
    obtain ⟨hdest, hfree, ⟨-, rfl⟩ | ⟨r, w, -, -, rfl⟩⟩ := runPreload_ok h <;> exact .inr (.inl ⟨hfree, rfl, hdest⟩)
  | computePre arg1 arg2 =>
    obtain ⟨e, -⟩ | ⟨e, -⟩ := hw <;> rw [e] <;> exact .inr (.inr ⟨rfl, rfl⟩)
  | computeAcc arg1 arg2 =>
    obtain ⟨ar, u, -, -, -, hnone, -⟩ := runComputeAcc_ok h
    obtain ⟨e, -⟩ | ⟨e, -⟩ := hw <;> rw [e] <;> exact .inr (.inr ⟨rfl, hnone⟩)
  | mvin => obtain ⟨e, -⟩ | ⟨e, -⟩ := hw <;> rw [e] <;> exact .inl ⟨rfl, rfl, rfl⟩
  | cfgprec | cfgacc | mvout | pack | unpack | fence | flush =>
    replace hw : t = _ := hw
    rw [hw]; exact .inl ⟨rfl, rfl, rfl⟩

/-- A completed command keeps the pairing of weight and destination, and the pending destination checked (43_matmul R171,
R174). -/
theorem runOf_keeps_sequencing {i : Instr} {s t : State} (h : WeightHasDestination s ∧ DestinationLegal s)
    (hr : runOf i s = .ok t) : WeightHasDestination t ∧ DestinationLegal t := by
  have hparams := runOf_params hr
  obtain ⟨hp, hv, hd⟩ | ⟨-, hv, hd⟩ | ⟨hv, hp⟩ := runOf_sequencing hr
  · rw [WeightHasDestination, DestinationLegal, hparams, hp, hv, hd]; exact h
  · refine ⟨fun _ => hv, fun _ => (checkPreloadDest_ok.1 hd).imp_right fun ⟨la, hla⟩ => ?_⟩
    obtain ⟨hdec, hrsv, -, hrow⟩ := checkLa_ok.1 hla
    exact ⟨la, hdec, hrsv, hparams ▸ hrow⟩
  · exact ⟨fun h => by simp [hp] at h, fun h => by simp [hv] at h⟩

/-- Settles O58: PRELOAD checks the destination it leaves pending, a COMPUTE leaves nothing pending, and reset clears both
bits. -/
theorem stepKeepsSequencing : Obligations.StepKeepsSequencing := by
  intro s t hpair hlegal hs
  refine step_keeps_of_data (P := fun u => WeightHasDestination u ∧ DestinationLegal u) (fun _ _ hu => hu)
    (fun _ _ _ => runOf_keeps_sequencing) (fun _ _ _ _ hu => hu) (fun u _ => ?_) ⟨hpair, hlegal⟩ hs
  exact ⟨fun h => by simp at h, fun h => by simp at h⟩

/-- Settles O40: a command that does not halt has completed, so its checks of the sequencing bits have passed. -/
theorem computesConsumePreloads : Obligations.ComputesConsumePreloads := by
  intro s t arg1 arg2 _ ht
  refine ⟨fun h => ?pre, fun h => ?acc, fun h => ?preload⟩ <;> have hr := runOf_of_exec_running h ht
  case pre =>
    obtain ⟨ar, u, -, hdest, hpend, -, rfl⟩ := runComputePre_ok hr
    exact ⟨hdest, hpend, rfl, rfl, rfl⟩
  case acc =>
    obtain ⟨ar, u, -, hdest, hres, hpend, hbody, rfl⟩ := runComputeAcc_ok hr
    rw [computeBody_frame hbody]
    exact ⟨hdest, hres, rfl, hpend, rfl⟩
  case preload =>
    obtain ⟨-, hfree, ⟨-, rfl⟩ | ⟨r, w, -, -, rfl⟩⟩ := runPreload_ok hr <;> exact ⟨hfree, rfl, rfl⟩

/-! ### PRELOAD (O26, O27, O28) -/

/-- A local address with fields is no sentinel (30_encoding R84). -/
theorem ne_sentinel_of_decodeLa {la : LocalWord} {a : LocalAddr} (h : decodeLa la = some a) : la ≠ sentinel := fun hs => by
  rw [decodeLa_eq_none.2 hs] at h
  cases h

section
variable {s : State} {arg1 arg2 : ArgWord}

/-- The sentinel weight needs no check (R171). -/
theorem checkedWeight_of_sentinel (h : laOf arg1 = sentinel) : checkedWeight s (laOf arg1) = .ok none := if_pos h

/-- A weight address is checked after CFG_EX (R171). -/
theorem checkedWeight_of_ne (h : laOf arg1 ≠ sentinel) :
    checkedWeight s (laOf arg1) = require (s.cfgEx.valid = true) .configNotSet >>= fun _ =>
      checkLa s.params (laOf arg1) plainSp s.params.dim >>= fun la => .ok (some la.row) := if_neg h

/-- A weight address that names its rows passes with its row (R171). -/
theorem checkedWeight_of_names {row : Nat} (hcfg : s.cfgEx.valid = true)
    (h : NamesRows s arg1 .sp false row s.params.dim) : checkedWeight s (laOf arg1) = .ok (some row) := by
  rw [checkedWeight_of_ne (ne_sentinel_of_decodeLa h.1), require_pos hcfg, ok_bind,
    checkLa_of_names (allowed := plainSp) h (by decide), ok_bind]

/-- A weight operand that meets R171's conditions passes. -/
theorem exists_checkedWeight (h : laOf arg1 = sentinel ∨
    (s.cfgEx.valid = true ∧ LegalAddress arg1 plainSp ∧ RowsInRange s arg1 s.params.dim)) :
    ∃ wr, checkedWeight s (laOf arg1) = .ok wr := by
  obtain hs | ⟨hcfg, hlegal, hrows⟩ := h
  · exact ⟨none, checkedWeight_of_sentinel hs⟩
  · obtain ⟨la, hla, -⟩ := checkLa_of_legal hlegal hrows
    exact ⟨some la.row, by rw [checkedWeight_of_ne (laOf_ne_sentinel hlegal), require_pos hcfg, ok_bind, hla, ok_bind]⟩

/-- A weight address is checked for CFG_EX, then for legality, then for its rows (R171, 30_encoding R85). -/
theorem checkedWeight_faults :
    (laOf arg1 ≠ sentinel → s.cfgEx.valid = false → checkedWeight s (laOf arg1) = .error .configNotSet) ∧
    (laOf arg1 ≠ sentinel → s.cfgEx.valid = true → ¬ LegalAddress arg1 plainSp →
      checkedWeight s (laOf arg1) = .error .illegalAddress) ∧
    (s.cfgEx.valid = true → LegalAddress arg1 plainSp → ¬ RowsInRange s arg1 s.params.dim →
      checkedWeight s (laOf arg1) = .error .rowOutOfRange) := by
  refine ⟨fun hne hcfg => ?_, fun hne hcfg h => ?_, fun hcfg h hrows => ?_⟩
  · rw [checkedWeight_of_ne hne, require_neg (by simp [hcfg]), error_bind]
  · rw [checkedWeight_of_ne hne, require_pos hcfg, ok_bind, checkLa_of_not_legal h, error_bind]
  · rw [checkedWeight_of_ne (laOf_ne_sentinel h), require_pos hcfg, ok_bind, checkLa_of_not_rows h hrows, error_bind]

/-- A destination PRELOAD accepts passes (R171). -/
theorem checkPreloadDest_of_ok (h : PreloadDestOk s arg2) : checkPreloadDest s (laOf arg2) = .ok () :=
  checkPreloadDest_ok.2 <| h.imp_right fun ⟨space, accum, _, hn⟩ =>
    ⟨_, checkLa_of_names hn (by cases space <;> cases accum <;> decide)⟩

/-- A destination other than SENTINEL is checked for legality, then for its rows (R171, 30_encoding R85). -/
theorem checkPreloadDest_faults :
    (¬ (laOf arg2 = sentinel ∨ LegalAddress arg2 (anySp ++ anyAcc)) →
      checkPreloadDest s (laOf arg2) = .error .illegalAddress) ∧
    ((laOf arg2 = sentinel ∨ LegalAddress arg2 (anySp ++ anyAcc)) → ¬ RowsInRange s arg2 s.params.dim →
      checkPreloadDest s (laOf arg2) = .error .rowOutOfRange) := by
  refine ⟨fun h => ?_, fun h hrows => ?_⟩
  · obtain ⟨hne, hillegal⟩ := not_or.1 h
    rw [checkPreloadDest, if_neg hne, checkLa_of_not_legal hillegal, error_bind]
  · have hne : laOf arg2 ≠ sentinel := fun hs => hrows fun la hla => absurd hs (ne_sentinel_of_decodeLa hla)
    rw [checkPreloadDest, if_neg hne, checkLa_of_not_rows (h.resolve_left hne) hrows, error_bind]

/-- PRELOAD of a weight whose operands pass captures the tile (R171). -/
theorem runPreload_of_weight {r : Nat} (hw : checkedWeight s (laOf arg1) = .ok (some r)) (hd : PreloadDestOk s arg2)
    (hfree : s.destValid = false) :
    runPreload arg1 arg2 s = spTile s r s.cfgEx.width >>= fun t => .ok ((s.setPending t).setDest (laOf arg2)) := by
  rw [runPreload, hw, ok_bind, checkPreloadDest_of_ok hd, ok_bind, require_pos hfree, ok_bind]

end

/-- Settles O26: the tile that `sp_tile` reads has the elements that its rows hold. -/
theorem preloadCapturesWeight : Obligations.PreloadCapturesWeight := by
  intro s arg1 arg2 row f hcfg ⟨_, hex, _⟩ hn hd hfree hf
  obtain ⟨-, hbytes⟩ := hex hcfg
  obtain ⟨w, hw, hval⟩ := spTile_of_holdsTile hbytes hf
  have hrun : runPreload arg1 arg2 s = .ok ((s.setPending w).setDest (laOf arg2)) := by
    rw [runPreload_of_weight (checkedWeight_of_names hcfg hn) hd hfree, hw, ok_bind]
  exact ⟨_, exec_of_ok hrun, rfl, hval⟩

/-- Settles O27: the sentinel weight needs no check, so no configuration. -/
theorem preloadZerosSetsDestination : Obligations.PreloadZerosSetsDestination := by
  intro s arg1 arg2 hnone hd hfree
  have hrun : runPreload arg1 arg2 s = .ok (s.clearPending.setDest (laOf arg2)) := by
    rw [runPreload, checkedWeight_of_sentinel hnone, ok_bind, checkPreloadDest_of_ok hd, ok_bind, require_pos hfree,
      ok_bind]
  exact exec_of_ok hrun

/-- Settles O28: the weight operand fails first, then the destination operand, the pending destination, the weight data. -/
theorem preloadFaultsInOrder : Obligations.PreloadFaultsInOrder := by
  intro s arg1 arg2 faults noWeight weightOk destLegal
  have hrun : ∀ c, runPreload arg1 arg2 s = .error c → faults c := fun c => faultsWith_of_run (i := .preload arg1 arg2)
  have hweight : ∀ c, checkedWeight s (laOf arg1) = .error c → faults c := fun c h =>
    hrun c (by rw [runPreload, h, error_bind])
  have hdest : weightOk → ∀ c, checkPreloadDest s (laOf arg2) = .error c → faults c := fun hw c h => by
    obtain ⟨wr, hwr⟩ := exists_checkedWeight hw
    exact hrun c (by rw [runPreload, hwr, ok_bind, h, error_bind])
  obtain ⟨hw1, hw2, hw3⟩ := checkedWeight_faults (s := s) (arg1 := arg1)
  obtain ⟨hd1, hd2⟩ := checkPreloadDest_faults (s := s) (arg2 := arg2)
  refine ⟨fun hne hcfg => hweight _ (hw1 hne hcfg), fun hne hcfg h => hweight _ (hw2 hne hcfg h),
    fun hcfg h hrows => hweight _ (hw3 hcfg h hrows), fun hw h => hdest hw _ (hd1 h),
    fun hw h hrows => hdest hw _ (hd2 h hrows), fun hw hd hpending => ?pending,
    fun row i b hcfg hn hd hfree hi hb hundef => ?undef⟩
  case pending =>
    obtain ⟨wr, hwr⟩ := exists_checkedWeight hw
    apply hrun
    rw [runPreload, hwr, ok_bind, checkPreloadDest_of_ok hd, ok_bind, require_neg (by simp [hpending]), error_bind]
  case undef =>
    apply hrun
    rw [runPreload_of_weight (checkedWeight_of_names hcfg hn) hd hfree, spTile_of_undef hi hb hundef, error_bind]

end Sys2Proof.Machine
end

section
/-! COMPUTE.PRE and COMPUTE.ACC (43_matmul R170, R172, R173): the checks they share, the body they share with its two
updates, and the two commands as those checks, that body and their own sequencing bits. -/

namespace Sys2Proof.Machine

/-! ### The shared checks (R172, R173) -/

/-- The configuration registers a COMPUTE needs are valid (R172). -/
abbrev ComputeConfigured (s : State) : Prop :=
  s.cfgEx.valid = true ∧ s.cfgQ.valid = true ∧ (s.cfgQ.policy = .packed → s.cfgSt.valid = true)

/-- An operand of a COMPUTE names DIM in-range SP rows (R172). -/
abbrev OperandLegal (s : State) (arg : ArgWord) : Prop := LegalAddress arg plainSp ∧ RowsInRange s arg s.params.dim

/-- The operand A and the bias of a COMPUTE pass their checks (R172). -/
abbrev ComputeOperands (s : State) (arg1 arg2 : ArgWord) : Prop :=
  ComputeConfigured s ∧ OperandLegal s arg1 ∧ (laOf arg2 = sentinel ∨ OperandLegal s arg2)

section
variable {s : State} {arg1 arg2 : ArgWord}

/-- Rows that an operand names are legal and in range (30_encoding R85). -/
theorem operandLegal_of_names {row : Nat} (h : NamesRows s arg1 .sp false row s.params.dim) : OperandLegal s arg1 := by
  refine ⟨⟨_, h.1, rfl, List.mem_singleton_self _⟩, fun la hla => ?_⟩
  obtain rfl : _ = la := Option.some_inj.1 (h.1.symm.trans hla)
  exact h.2

/-- A missing configuration is the first failure (R172). -/
theorem computeChecks_of_not_configured (h : ¬ ComputeConfigured s) (ala dla : LocalWord) :
    computeChecks s ala dla = .error .configNotSet := by
  by_cases hcfg : s.cfgEx.valid = true ∧ s.cfgQ.valid = true
  · have hst : ¬ (s.cfgQ.policy = .packed → s.cfgSt.valid = true) := fun hst => h ⟨hcfg.1, hcfg.2, hst⟩
    rw [computeChecks, require_pos hcfg, ok_bind, require_neg hst, error_bind]
  · rw [computeChecks, require_neg hcfg, error_bind]

/-- With the configuration set, operand A is checked before the bias (R172). -/
theorem computeChecks_of_configured (h : ComputeConfigured s) (ala dla : LocalWord) :
    computeChecks s ala dla = checkLa s.params ala plainSp s.params.dim >>= fun a =>
      if dla = sentinel then .ok a.row else checkLa s.params dla plainSp s.params.dim >>= fun _ => .ok a.row := by
  obtain ⟨hex, hq, hst⟩ := h
  rw [computeChecks, require_pos ⟨hex, hq⟩, ok_bind, require_pos hst, ok_bind]

/-- With the configuration set, operand A fails first, for legality before its rows (R172, 30_encoding R85). -/
theorem computeChecks_of_operand_fault (h : ComputeConfigured s) (dla : LocalWord) :
    (¬ LegalAddress arg1 plainSp → computeChecks s (laOf arg1) dla = .error .illegalAddress) ∧
    (LegalAddress arg1 plainSp → ¬ RowsInRange s arg1 s.params.dim →
      computeChecks s (laOf arg1) dla = .error .rowOutOfRange) := by
  rw [computeChecks_of_configured h]
  refine ⟨fun h1 => ?_, fun h1 hr1 => ?_⟩
  · rw [checkLa_of_not_legal h1, error_bind]
  · rw [checkLa_of_not_rows h1 hr1, error_bind]

/-- With operand A passed, a bias other than SENTINEL fails for legality before its rows (R172, 30_encoding R85). -/
theorem computeChecks_of_bias_fault (h : ComputeConfigured s) (h1 : OperandLegal s arg1) :
    (laOf arg2 ≠ sentinel → ¬ LegalAddress arg2 plainSp →
      computeChecks s (laOf arg1) (laOf arg2) = .error .illegalAddress) ∧
    (LegalAddress arg2 plainSp → ¬ RowsInRange s arg2 s.params.dim →
      computeChecks s (laOf arg1) (laOf arg2) = .error .rowOutOfRange) := by
  obtain ⟨la, hla, -⟩ := checkLa_of_legal h1.1 h1.2
  rw [computeChecks_of_configured h, hla, ok_bind]
  refine ⟨fun hne h2 => ?_, fun h2 hr2 => ?_⟩
  · rw [if_neg hne, checkLa_of_not_legal h2, error_bind]
  · rw [if_neg (laOf_ne_sentinel h2), checkLa_of_not_rows h2 hr2, error_bind]

/-- Operands that pass leave the row of operand A (R172). -/
theorem exists_computeChecks (h : ComputeOperands s arg1 arg2) :
    ∃ la, decodeLa (laOf arg1) = some la ∧ computeChecks s (laOf arg1) (laOf arg2) = .ok la.row := by
  obtain ⟨hcfg, ⟨hlegal, hrows⟩, hbias⟩ := h
  obtain ⟨la, hla, hdec, -⟩ := checkLa_of_legal hlegal hrows
  refine ⟨la, hdec, ?_⟩
  rw [computeChecks_of_configured hcfg, hla, ok_bind]
  obtain hs | ⟨hlegal2, hrows2⟩ := hbias
  · rw [if_pos hs]
  · obtain ⟨la2, hla2, -⟩ := checkLa_of_legal hlegal2 hrows2
    rw [if_neg (laOf_ne_sentinel hlegal2), hla2, ok_bind]

end

/-! ### The two commands (R172, R173) -/

section
variable {s : State} {arg1 arg2 : ArgWord} {ar : Nat}

/-- COMPUTE.PRE with its operands checked and a weight and a destination pending is the body with PENDW, which becomes
resident (R172). -/
theorem runComputePre_of_checks (h : computeChecks s (laOf arg1) (laOf arg2) = .ok ar) (hdest : s.destValid = true)
    (hpend : s.pendwValid = true) : runComputePre arg1 arg2 s =
      computeBody s ar (laOf arg2) s.pendw >>= fun t => .ok (t.makeResident s.pendw) := by
  rw [runComputePre, h, ok_bind, require_pos hdest, ok_bind, require_pos hpend, ok_bind]

/-- COMPUTE.ACC with its operands checked, a resident weight, a destination and no weight pending is the body with WREG
(R173). -/
theorem runComputeAcc_of_checks (h : computeChecks s (laOf arg1) (laOf arg2) = .ok ar) (hdest : s.destValid = true)
    (hres : s.wregValid = true) (hpend : s.pendwValid = false) : runComputeAcc arg1 arg2 s =
      computeBody s ar (laOf arg2) s.wreg >>= fun t => .ok t.consumeDest := by
  rw [runComputeAcc, h, ok_bind, require_pos hdest, ok_bind, require_pos hres, ok_bind, require_pos hpend, ok_bind]

/-- A check that fails ends both COMPUTEs (R172, R173). -/
theorem computes_fault_of_checks {c : Cause} (h : computeChecks s (laOf arg1) (laOf arg2) = .error c) :
    FaultsWith (.computePre arg1 arg2) s c (exec (.computePre arg1 arg2) s) ∧
      FaultsWith (.computeAcc arg1 arg2) s c (exec (.computeAcc arg1 arg2) s) := by
  refine ⟨faultsWith_of_run ?_, faultsWith_of_run ?_⟩
  · rw [runOf, runComputePre, h, error_bind]
  · rw [runOf, runComputeAcc, h, error_bind]

/-- Past the shared checks, a COMPUTE without a pending destination ends in NO_DESTINATION (R172, R173). -/
theorem computes_fault_of_noDestination (h : computeChecks s (laOf arg1) (laOf arg2) = .ok ar)
    (hdest : s.destValid = false) :
    FaultsWith (.computePre arg1 arg2) s .noDestination (exec (.computePre arg1 arg2) s) ∧
      FaultsWith (.computeAcc arg1 arg2) s .noDestination (exec (.computeAcc arg1 arg2) s) := by
  have hnot : ¬ s.destValid = true := by simp [hdest]
  refine ⟨faultsWith_of_run ?_, faultsWith_of_run ?_⟩
  · rw [runOf, runComputePre, h, ok_bind, require_neg hnot, error_bind]
  · rw [runOf, runComputeAcc, h, ok_bind, require_neg hnot, error_bind]

/-- With a destination pending, COMPUTE.PRE without a pending weight ends in NO_PRELOADED_WEIGHT (R172). -/
theorem computePre_fault_of_noWeight (h : computeChecks s (laOf arg1) (laOf arg2) = .ok ar) (hdest : s.destValid = true)
    (hpend : s.pendwValid = false) :
    FaultsWith (.computePre arg1 arg2) s .noPreloadedWeight (exec (.computePre arg1 arg2) s) :=
  faultsWith_of_run (by
    rw [runOf, runComputePre, h, ok_bind, require_pos hdest, ok_bind, require_neg (by simp [hpend]), error_bind])

/-- With a destination pending, COMPUTE.ACC without a resident weight ends in NO_RESIDENT_WEIGHT, and with an unused pending
one in UNUSED_WEIGHT (R173). -/
theorem computeAcc_fault_of_weights (h : computeChecks s (laOf arg1) (laOf arg2) = .ok ar) (hdest : s.destValid = true) :
    (s.wregValid = false → FaultsWith (.computeAcc arg1 arg2) s .noResidentWeight (exec (.computeAcc arg1 arg2) s)) ∧
    (s.wregValid = true → s.pendwValid = true →
      FaultsWith (.computeAcc arg1 arg2) s .unusedWeight (exec (.computeAcc arg1 arg2) s)) := by
  refine ⟨fun hres => faultsWith_of_run ?_, fun hres hpend => faultsWith_of_run ?_⟩
  · rw [runOf, runComputeAcc, h, ok_bind, require_pos hdest, ok_bind, require_neg (by simp [hres]), error_bind]
  · rw [runOf, runComputeAcc, h, ok_bind, require_pos hdest, ok_bind, require_pos hres, ok_bind,
      require_neg (by simp [hpend]), error_bind]

end

/-! ### Row-major collection (60_exceptions R222) -/

/-- A collection whose elements all succeed succeeds. -/
theorem exists_gather {α : Type} {f : Nat → Except Cause α} {n : Nat} (h : ∀ j < n, ∃ x, f j = .ok x) :
    ∃ xs, gather f n = .ok xs := by
  cases hg : gather f n with
  | ok xs => exact ⟨xs, rfl⟩
  | error c =>
    obtain ⟨j, hj, he, -⟩ := gather_error.1 hg
    obtain ⟨x, hx⟩ := h j hj
    cases hx.symm.trans he

/-- A grid's first failing element in row-major order decides its cause. -/
theorem gatherGrid_eq_error {α : Type} {f : Nat → Nat → Except Cause α} {m n i₀ j₀ : Nat} {c : Cause} (hi : i₀ < m)
    (hj : j₀ < n) (hc : f i₀ j₀ = .error c)
    (hbefore : ∀ i j, j < n → (i < i₀ ∨ (i = i₀ ∧ j < j₀)) → ∃ x, f i j = .ok x) : gatherGrid f m n = .error c := by
  refine gather_error.2 ⟨i₀, hi, gather_error.2 ⟨j₀, hj, hc, fun j hlt => ?_⟩, fun i hlt => ?_⟩
  · exact hbefore i₀ j (hlt.trans hj) (.inr ⟨rfl, hlt⟩)
  · exact exists_gather fun j hjn => hbefore i j hjn (.inl hlt)

/-- A grid one of whose elements fails, and none with another cause, fails with that cause. -/
theorem gatherGrid_eq_only_error {α : Type} {f : Nat → Nat → Except Cause α} {m n i₀ j₀ : Nat} {c : Cause} (hi : i₀ < m)
    (hj : j₀ < n) (hc : f i₀ j₀ = .error c) (honly : ∀ i j e, f i j = .error e → e = c) : gatherGrid f m n = .error c :=
  gather_eq_error hi (gather_eq_error hj hc (honly i₀)) fun i e he => by
    obtain ⟨j, -, hj, -⟩ := gather_error.1 he
    exact honly i j e hj

/-! ### The wide update (41_arithmetic R134) -/

section
variable {s : State} {c : Nat} {accum : Bool} {prod : Nat → Nat → Int}

/-- The element that a product is added onto: the resident one under the accumulate bit, else 0 (R134). -/
abbrev IsResident (s : State) (accum : Bool) (r j : Nat) (cur : Int) : Prop :=
  if accum then s.accElem r j = some cur else cur = 0

/-- A wide update whose sums are all in range stores them (R134). -/
theorem wideUpdate_of_inRange {old : Nat → Nat → Int}
    (hold : ∀ i j, i < s.params.dim → j < s.params.dim → IsResident s accum (c + i) j (old i j))
    (hin : ∀ i j, i < s.params.dim → j < s.params.dim → inAcc s.params (old i j + prod i j) = true) :
    ∃ new, wideUpdate s c accum prod = .ok (storeAccTile s c new) ∧
      ∀ i j, i < s.params.dim → j < s.params.dim → tileAt new i j = old i j + prod i j := by
  have hgrid := gatherGrid_of_forall fun i j hi hj => wideElem_ok.2 ⟨old i j, hold i j hi hj, hin i j hi hj, rfl⟩
  exact ⟨_, by rw [wideUpdate, hgrid, ok_bind], fun i j hi hj => tileAt_map_range _ _ _ i j hi hj⟩

/-- A wide update depends on the products of the tile alone. -/
theorem wideUpdate_congr {prod' : Nat → Nat → Int} (h : ∀ i < s.params.dim, ∀ j < s.params.dim, prod i j = prod' i j) :
    wideUpdate s c accum prod = wideUpdate s c accum prod' := by
  rw [wideUpdate, wideUpdate, gatherGrid_congr fun i hi j hj => congrArg (wideElem s accum (c + i) j) (h i hi j hj)]

/-- The first element that a wide update cannot store decides the cause: undef under the accumulate bit, or a sum out of
range (R134, 60_exceptions R222). -/
theorem wideUpdate_faults {i₀ j₀ : Nat} (hi : i₀ < s.params.dim) (hj : j₀ < s.params.dim)
    (hbefore : ∀ i j, j < s.params.dim → (i < i₀ ∨ (i = i₀ ∧ j < j₀)) →
      ∃ cur, IsResident s accum (c + i) j cur ∧ inAcc s.params (cur + prod i j) = true) :
    (accum = true → s.accElem (c + i₀) j₀ = none → wideUpdate s c accum prod = .error .uninitRead) ∧
    (∀ cur, IsResident s accum (c + i₀) j₀ cur → inAcc s.params (cur + prod i₀ j₀) = false →
      wideUpdate s c accum prod = .error .accOverflow) := by
  have hfirst : ∀ e, wideElem s accum (c + i₀) j₀ (prod i₀ j₀) = .error e → wideUpdate s c accum prod = .error e :=
    fun e he => by
      rw [wideUpdate, gatherGrid_eq_error hi hj he fun i j hjn hlt => ?_, error_bind]
      obtain ⟨cur, hcur, hin⟩ := hbefore i j hjn hlt
      exact ⟨_, wideElem_ok.2 ⟨cur, hcur, hin, rfl⟩⟩
  refine ⟨fun ha hundef => hfirst _ ?_, fun cur hcur hout => hfirst _ ?_⟩
  · rw [wideElem, residentElem, if_pos ha, readAcc_error.2 ⟨hundef, rfl⟩, error_bind]
  · have hres : residentElem s accum (c + i₀) j₀ = .ok cur := by
      cases accum with
      | false => rw [residentElem, show cur = 0 from hcur]; rfl
      | true => exact readAcc_ok.2 hcur
    rw [wideElem, hres, ok_bind, require_neg (by simp [hout]), error_bind]

end

/-! ### The packed update (41_arithmetic R135 to R137) -/

/-- A slot of a byte put together slot by slot (R135). -/
theorem fieldGet_byteOfSlots {w n t : Nat} {u : Nat → Nat} (hu : ∀ t, u t < 2 ^ w) (ht : t < n) (hfit : t * w + w ≤ 8) :
    fieldGet (byteOfSlots w u n) t w = u t := by
  induction n with
  | zero => omega
  | succ n ih =>
    rw [byteOfSlots, fieldGet_fieldSet _ (hu n) hfit]
    by_cases htn : t = n
    · rw [if_pos htn, htn]
    · rw [if_neg htn, ih (by omega)]

/-- The byte at (i, m) of a packed tile with elements `x` (R135, last loop). -/
def packedByte (w : Nat) (x : Nat → Nat → Int) (i m : Nat) : Byte :=
  byteOfSlots w (fun t => enc w (x i (m * slots w + t))) (slots w)

/-- Each field of a packed tile's byte decodes to its element, wrapped (R135). -/
theorem unpackSigned_packedByte {w : Nat} (hw : w = 1 ∨ w = 2 ∨ w = 4 ∨ w = 8) (x : Nat → Nat → Int) (i j : Nat) :
    unpackSigned (packedByte w x i (j / slots w)) (j % slots w) w = wrap w (x i j) := by
  rw [unpackSigned, packedByte, fieldGet_byteOfSlots (fun _ => enc_lt w _) (slot_lt hw j) (slot_bits_le hw j),
    Nat.div_add_mod', wrap_eq_dec_enc]

/-- `wrap_W` of a wrapped value is that value (R103). -/
theorem wrap_wrap {w : Nat} (hw : w = 1 ∨ w = 2 ∨ w = 4 ∨ w = 8) (x : Int) : wrap w (wrap w x) = wrap w x := by
  simpa using wrap_add_wrap hw 0 x

section
variable {s : State} {w c : Nat} {accum : Bool} {a b d : Tile}

/-- SP after the packed bytes of a tile are stored in DIM of its rows (R137). -/
theorem spByte_setSp_putGrid (f : Nat → Nat → Byte) (n m r b : Nat) :
    (s.setSp (s.sp.putGrid c f n m)).spByte r b
      = if c ≤ r ∧ r < c + m ∧ b < n then some (f (r - c) b) else s.spByte r b := by
  simp only [State.spByte, State.setSp_sp, CellStore.cell_putGrid]

/-- A tile stored packed holds its elements, wrapped (R135, R137). -/
theorem holdsTile_packedBytes (hw : w = 1 ∨ w = 2 ∨ w = 4 ∨ w = 8) (hbytes : s.params.dim * w % 8 = 0)
    (x : Nat → Nat → Int) :
    HoldsTile (s.setSp (s.sp.putGrid c (packedByte w x) (rowBytes s.params w) s.params.dim)) c w
      (fun i j => wrap w (x i j)) := by
  intro i j hi hj
  have hbyte : c ≤ c + i ∧ c + i < c + s.params.dim ∧ j / slots w < rowBytes s.params w :=
    ⟨Nat.le_add_right c i, Nat.add_lt_add_left hi c, byteIndex_lt hw hbytes hj⟩
  rw [spField, spByte_setSp_putGrid, if_pos hbyte, Option.map_some, Nat.add_sub_cancel_left, unpackSigned_packedByte hw]

/-- The current field of a destination that holds `cur`: 0 without the accumulate bit (R135). -/
theorem packedCurrent_eq {r j : Nat} {cur : Int} (hplain : accum = false → cur = 0)
    (haccum : accum = true → spField s r w j = some cur) : packedCurrent s w accum r j = .ok cur := by
  cases accum with
  | false => rw [hplain rfl]; rfl
  | true =>
    obtain ⟨byte, hbyte, hval⟩ := Option.map_eq_some_iff.1 (haccum rfl)
    rw [packedCurrent, if_pos rfl, readSp_ok.2 hbyte, ok_bind, hval]

/-- A current field that cannot be read is undef (R135, 10_state R27). -/
theorem packedCurrent_error {r j : Nat} {e : Cause} (h : packedCurrent s w accum r j = .error e) : e = .uninitRead := by
  cases accum with
  | false => cases h
  | true =>
    rw [packedCurrent, if_pos rfl, bind_error] at h
    obtain h | ⟨byte, -, h⟩ := h
    · exact (readSp_error.1 h).2
    · cases h

/-- A packed update of a defined destination stores the wrapped sums, packed (R135, R136). -/
theorem packedUpdate_of_current {cur : Nat → Nat → Int}
    (hcur : ∀ i j, i < s.params.dim → j < s.params.dim → packedCurrent s w accum (c + i) j = .ok (cur i j)) :
    ∃ out : Tile, packedUpdate s w c accum a b d = .ok
        (s.setSp (s.sp.putGrid c (packedByte w (tileAt out)) (rowBytes s.params w) s.params.dim)) ∧
      ∀ i j, i < s.params.dim → j < s.params.dim → tileAt out i j = packedCell w a b d (cur i j) i j s.params.dim := by
  have hgrid := gatherGrid_of_forall
    (f := fun i j => packedCurrent s w accum (c + i) j >>= fun x => .ok (packedCell w a b d x i j s.params.dim))
    fun i j hi hj => by rw [hcur i j hi hj, ok_bind]
  refine ⟨_, ?_, fun i j hi hj => tileAt_map_range _ _ _ i j hi hj⟩
  rw [packedUpdate, hgrid, ok_bind]
  rfl

/-- The bytes of a packed row are whole bytes of its DIM fields (00_scope R8, R11). -/
theorem rowBytes_le_packedLen (p : Params) (w : Nat) : rowBytes p w ≤ packedLen p.dim w :=
  Nat.div_le_div_right (Nat.le_add_right _ _)

/-- A packed update of an accumulated destination with an undef byte fails with UNINIT_READ (R135, 10_state R27). -/
theorem packedUpdate_of_undef {i m : Nat} (hw : w = 1 ∨ w = 2 ∨ w = 4 ∨ w = 8) (hi : i < s.params.dim)
    (hm : m < rowBytes s.params w) (hundef : s.spByte (c + i) m = none) :
    packedUpdate s w c true a b d = .error .uninitRead := by
  obtain ⟨hj, hbyte⟩ := slotZero_lt (k := s.params.dim) hw (hm.trans_le (rowBytes_le_packedLen s.params w))
  have hcur : packedCurrent s w true (c + i) (m * slots w) = .error .uninitRead := by
    rw [packedCurrent, if_pos rfl, hbyte, readSp_error.2 ⟨hundef, rfl⟩, error_bind]
  rw [packedUpdate, gatherGrid_eq_only_error hi hj (by rw [hcur, error_bind]) fun i j e he => ?_, error_bind]
  obtain he | ⟨x, -, he⟩ := bind_error.1 he
  · exact packedCurrent_error he
  · cases he

end

/-! ### The body (43_matmul R170) -/

/-- The elements of the DIM x DIM tile `t` are those of `f`. -/
abbrev TileHolds (n : Nat) (t : Tile) (f : Nat → Nat → Int) : Prop := ∀ i j, i < n → j < n → tileAt t i j = f i j

/-- A step product at (i, j) depends on row i of A and element (i, j) of the bias alone (R132). -/
theorem stepProduct_congr {n : Nat} {a a' b d d' : Nat → Nat → Int} {i j : Nat} (ha : ∀ k < n, a i k = a' i k)
    (hd : d i j = d' i j) : stepProduct n a b d i j = stepProduct n a' b d' i j := by
  rw [stepProduct, stepProduct, hd, Finset.sum_congr rfl fun k hk => by rw [ha k (Finset.mem_range.1 hk)]]

section
variable {s : State} {arg1 arg2 : ArgWord} {a d : Nat → Nat → Int}

/-- DEST that names rows the policy admits passes with those rows (R170). -/
theorem checkedDest_of_names {space : Space} {accum : Bool} {c : Nat} (h : DestNames s space accum c)
    (hadm : (space, accum) ∈ destSpaces s.cfgQ.policy) : checkedDest s = .ok (some ⟨space, accum, false, c⟩) := by
  rw [checkedDest, if_neg (ne_sentinel_of_decodeLa h.1), checkLa_ok.2 ⟨h.1, rfl, hadm, h.2⟩, ok_bind]

/-- A COMPUTE that is ready passes its checks, and reads the elements that its operands hold (R170, R172). -/
theorem ComputeReady.reads (h : ComputeReady s arg1 arg2 a d) :
    s.destValid = true ∧
      ∃ ar ta td, computeChecks s (laOf arg1) (laOf arg2) = .ok ar ∧ spTile s ar s.cfgEx.width = .ok ta ∧
        biasTile s (laOf arg2) = .ok td ∧ TileHolds s.params.dim ta a ∧ TileHolds s.params.dim td d := by
  obtain ⟨hex, hq, hst, ⟨-, hlegal, -⟩, ⟨row, hn, ha⟩, hd, hdest⟩ := h
  have hops : ComputeOperands s arg1 arg2 :=
    ⟨⟨hex, hq, hst⟩, operandLegal_of_names hn, hd.imp And.left fun ⟨_, hn2, _⟩ => operandLegal_of_names hn2⟩
  obtain ⟨-, hbytes⟩ := hlegal hex
  obtain ⟨ta, hta, hav⟩ := spTile_of_holdsTile hbytes ha
  obtain ⟨td, htd, hdv⟩ := biasTile_of_holdsBias hbytes hd
  obtain ⟨la, hdec, hchecks⟩ := exists_computeChecks hops
  obtain rfl : _ = la := Option.some_inj.1 (hn.1.symm.trans hdec)
  exact ⟨hdest, row, ta, td, hchecks, hta, htd, hav, hdv⟩

/-- Under PACKED a COMPUTE that is ready has a legal W_ST: a row of DIM fields is whole bytes (42_config R160). -/
theorem ComputeReady.store_bytes (h : ComputeReady s arg1 arg2 a d) (hp : s.cfgQ.policy = .packed) :
    s.params.dim * s.cfgSt.width % 8 = 0 := by
  obtain ⟨-, -, hst, ⟨-, -, hlegal⟩, -⟩ := h
  exact (hlegal (hst hp)).2

/-- The body with a SENTINEL destination discards its result (R170). -/
theorem ComputeReady.body_discard (h : ComputeReady s arg1 arg2 a d) (hdest : s.dest = sentinel) :
    ∃ ar, computeChecks s (laOf arg1) (laOf arg2) = .ok ar ∧ ∀ weight, computeBody s ar (laOf arg2) weight = .ok s := by
  obtain ⟨-, ar, ta, td, hchecks, hta, htd, -, -⟩ := h.reads
  refine ⟨ar, hchecks, fun weight => ?_⟩
  rw [computeBody, checkedDest, if_pos hdest, ok_bind, hta, ok_bind, htd, ok_bind]

/-- The body under WIDE is the wide update with the step product of the operands' elements (R170). -/
theorem ComputeReady.body_wide {accum : Bool} {c : Nat} (h : ComputeReady s arg1 arg2 a d) (hp : s.cfgQ.policy = .wide)
    (hdest : DestNames s .acc accum c) :
    ∃ ar, computeChecks s (laOf arg1) (laOf arg2) = .ok ar ∧ ∀ weight,
      computeBody s ar (laOf arg2) weight = wideUpdate s c accum (stepProduct s.params.dim a (tileAt weight) d) := by
  obtain ⟨-, ar, ta, td, hchecks, hta, htd, ha, hd⟩ := h.reads
  refine ⟨ar, hchecks, fun weight => ?_⟩
  rw [computeBody, checkedDest_of_names hdest (by rw [hp]; exact acc_mem_anyAcc accum), ok_bind, hta, ok_bind, htd, ok_bind]
  simp only [hp]
  exact wideUpdate_congr fun i hi j hj => matmulStep_eq_stepProduct hi hj ha hd

/-- The body under PACKED is the packed update with tiles of the operands' elements (R170). -/
theorem ComputeReady.body_packed {accum : Bool} {c : Nat} (h : ComputeReady s arg1 arg2 a d)
    (hp : s.cfgQ.policy = .packed) (hdest : DestNames s .sp accum c) :
    ∃ ar ta td, computeChecks s (laOf arg1) (laOf arg2) = .ok ar ∧ TileHolds s.params.dim ta a ∧
      TileHolds s.params.dim td d ∧ ∀ weight,
        computeBody s ar (laOf arg2) weight = packedUpdate s s.cfgSt.width c accum ta weight td := by
  obtain ⟨-, ar, ta, td, hchecks, hta, htd, ha, hd⟩ := h.reads
  refine ⟨ar, ta, td, hchecks, ha, hd, fun weight => ?_⟩
  have hadm : (Space.sp, accum) ∈ destSpaces s.cfgQ.policy := by rw [hp]; cases accum <;> decide
  rw [computeBody, checkedDest_of_names hdest hadm, ok_bind, hta, ok_bind, htd, ok_bind]
  simp only [hp]

/-- The body under WIDE leaves each destination element its old value plus the step product, when all are in range, and
every other ACC element (R134, R170). -/
theorem ComputeReady.body_wide_ok {accum : Bool} {c : Nat} (h : ComputeReady s arg1 arg2 a d) (weight : Tile)
    (hp : s.cfgQ.policy = .wide) (hdest : DestNames s .acc accum c) {old : Nat → Nat → Int}
    (hplain : accum = false → ∀ i j, old i j = 0)
    (haccum : accum = true → ∀ i j, i < s.params.dim → j < s.params.dim → s.accElem (c + i) j = some (old i j))
    (hin : ∀ i j, i < s.params.dim → j < s.params.dim →
      inAcc s.params (old i j + stepProduct s.params.dim a (tileAt weight) d i j) = true) :
    ∃ ar new, computeChecks s (laOf arg1) (laOf arg2) = .ok ar ∧
      computeBody s ar (laOf arg2) weight = .ok (storeAccTile s c new) ∧
      ∀ r j, (storeAccTile s c new).accElem r j =
        if c ≤ r ∧ r < c + s.params.dim ∧ j < s.params.dim
        then some (old (r - c) j + stepProduct s.params.dim a (tileAt weight) d (r - c) j) else s.accElem r j := by
  obtain ⟨ar, hchecks, hbody⟩ := h.body_wide hp hdest
  have hold : ∀ i j, i < s.params.dim → j < s.params.dim → IsResident s accum (c + i) j (old i j) := fun i j hi hj => by
    cases accum with
    | false => exact hplain rfl i j
    | true => exact haccum rfl i j hi hj
  obtain ⟨new, hnew, hval⟩ := wideUpdate_of_inRange hold hin
  refine ⟨ar, new, hchecks, (hbody weight).trans hnew, fun r j => ?_⟩
  rw [storeAccTile_accElem]
  split_ifs with hrj
  · rw [hval (r - c) j (by omega) hrj.2.2]
  · rfl

/-- The body under PACKED leaves in each destination field its current value plus the step product, wrapped, and every SP
byte outside the packed rows (R135 to R137, R170). -/
theorem ComputeReady.body_packed_ok {accum : Bool} {c : Nat} (h : ComputeReady s arg1 arg2 a d) (weight : Tile)
    (hp : s.cfgQ.policy = .packed) (hdest : DestNames s .sp accum c) {cur : Nat → Nat → Int}
    (hplain : accum = false → ∀ i j, cur i j = 0) (haccum : accum = true → HoldsTile s c s.cfgSt.width cur) :
    ∃ ar sp, computeChecks s (laOf arg1) (laOf arg2) = .ok ar ∧
      computeBody s ar (laOf arg2) weight = .ok (s.setSp sp) ∧
      HoldsTile (s.setSp sp) c s.cfgSt.width
        (fun i j => wrap s.cfgSt.width (cur i j + stepProduct s.params.dim a (tileAt weight) d i j)) ∧
      ∀ r b, ¬ (c ≤ r ∧ r < c + s.params.dim ∧ b < s.params.dim * s.cfgSt.width / 8) →
        (s.setSp sp).spByte r b = s.spByte r b := by
  have hbytes := h.store_bytes hp
  have hw := s.cfgSt.width_cases
  obtain ⟨ar, ta, td, hchecks, ha, hd, hbody⟩ := h.body_packed hp hdest
  obtain ⟨out, hout, hval⟩ := packedUpdate_of_current (a := ta) (b := weight) (d := td) fun i j hi hj =>
    packedCurrent_eq (fun hf => hplain hf i j) fun ht => haccum ht i j hi hj
  refine ⟨ar, _, hchecks, (hbody weight).trans hout, fun i j hi hj => ?_, fun r b hrb => ?_⟩
  · have hprod : stepProduct s.params.dim (tileAt ta) (tileAt weight) (tileAt td) i j
        = stepProduct s.params.dim a (tileAt weight) d i j :=
      stepProduct_congr (fun k hk => ha i k hi hk) (hd i j hi hj)
    have helem : wrap s.cfgSt.width (tileAt out i j)
        = wrap s.cfgSt.width (cur i j + stepProduct s.params.dim a (tileAt weight) d i j) := by
      rw [hval i j hi hj, packedLoopIsWrappedProduct _ (mem_widths.2 hw), wrap_wrap hw, hprod]
    exact (holdsTile_packedBytes hw hbytes (tileAt out) i j hi hj).trans (congrArg some helem)
  · exact (spByte_setSp_putGrid _ _ _ r b).trans (if_neg hrb)

end

/-! ### COMPUTE that completes (O29 to O33) -/

/-- Settles O29: the body under WIDE, after which PENDW is resident. -/
theorem computePreWideUpdatesAccumulator : Obligations.ComputePreWideUpdatesAccumulator := by
  intro s arg1 arg2 a d old accum c sum h hpend hp hdest hplain haccum hin
  obtain ⟨hvalid, -⟩ := h.reads
  obtain ⟨ar, new, hchecks, hbody, helem⟩ := h.body_wide_ok s.pendw hp hdest hplain haccum hin
  have hrun : runComputePre arg1 arg2 s = .ok ((storeAccTile s c new).makeResident s.pendw) := by
    rw [runComputePre_of_checks hchecks hvalid hpend, hbody, ok_bind]
  exact ⟨_, exec_of_ok hrun, rfl, helem⟩

/-- Settles O30: the body under WIDE with WREG. -/
theorem computeAccWideUpdatesAccumulator : Obligations.ComputeAccWideUpdatesAccumulator := by
  intro s arg1 arg2 a d old accum c sum h hres hpend hp hdest hplain haccum hin
  obtain ⟨hvalid, -⟩ := h.reads
  obtain ⟨ar, new, hchecks, hbody, helem⟩ := h.body_wide_ok s.wreg hp hdest hplain haccum hin
  have hrun : runComputeAcc arg1 arg2 s = .ok (storeAccTile s c new).consumeDest := by
    rw [runComputeAcc_of_checks hchecks hvalid hres hpend, hbody, ok_bind]
  exact ⟨_, exec_of_ok hrun, rfl, helem⟩

/-- Settles O31: the body under PACKED, after which PENDW is resident. -/
theorem computePrePackedUpdatesScratchpad : Obligations.ComputePrePackedUpdatesScratchpad := by
  intro s arg1 arg2 a d cur accum c w h hpend hp hdest hplain haccum
  obtain ⟨hvalid, -⟩ := h.reads
  obtain ⟨ar, sp, hchecks, hbody, hfields, hframe⟩ := h.body_packed_ok s.pendw hp hdest hplain haccum
  have hrun : runComputePre arg1 arg2 s = .ok ((s.setSp sp).makeResident s.pendw) := by
    rw [runComputePre_of_checks hchecks hvalid hpend, hbody, ok_bind]
  exact ⟨_, exec_of_ok hrun, rfl, hfields, hframe⟩

/-- Settles O32: the body under PACKED with WREG. -/
theorem computeAccPackedUpdatesScratchpad : Obligations.ComputeAccPackedUpdatesScratchpad := by
  intro s arg1 arg2 a d cur accum c w h hres hpend hp hdest hplain haccum
  obtain ⟨hvalid, -⟩ := h.reads
  obtain ⟨ar, sp, hchecks, hbody, hfields, hframe⟩ := h.body_packed_ok s.wreg hp hdest hplain haccum
  have hrun : runComputeAcc arg1 arg2 s = .ok (s.setSp sp).consumeDest := by
    rw [runComputeAcc_of_checks hchecks hvalid hres hpend, hbody, ok_bind]
  exact ⟨_, exec_of_ok hrun, rfl, hfields, hframe⟩

/-- Settles O33: the body with a SENTINEL destination changes nothing. -/
theorem computeWithoutOutputDiscards : Obligations.ComputeWithoutOutputDiscards := by
  intro s arg1 arg2 a d h hdest
  obtain ⟨hvalid, -⟩ := h.reads
  obtain ⟨ar, hchecks, hbody⟩ := h.body_discard hdest
  refine ⟨fun hpend => ?_, fun hres hpend => ?_⟩
  · have hrun : runComputePre arg1 arg2 s = .ok (s.makeResident s.pendw) := by
      rw [runComputePre_of_checks hchecks hvalid hpend, hbody, ok_bind]
    exact exec_of_ok hrun
  · have hrun : runComputeAcc arg1 arg2 s = .ok s.consumeDest := by
      rw [runComputeAcc_of_checks hchecks hvalid hres hpend, hbody, ok_bind]
    exact exec_of_ok hrun

/-! ### COMPUTE that faults (O34) -/

/-- The checks of a COMPUTE pass, and its body with this weight fails with cause `c`. -/
def BodyFaults (s : State) (arg1 arg2 : ArgWord) (weight : Tile) (c : Cause) : Prop :=
  ∃ ar, computeChecks s (laOf arg1) (laOf arg2) = .ok ar ∧ computeBody s ar (laOf arg2) weight = .error c

section
variable {s : State} {arg1 arg2 : ArgWord} {weight : Tile} {c : Cause}

/-- A failure of the body with PENDW is COMPUTE.PRE's, once its sequencing checks pass (R172). -/
theorem BodyFaults.computePre (h : BodyFaults s arg1 arg2 s.pendw c) (hdest : s.destValid = true)
    (hpend : s.pendwValid = true) : FaultsWith (.computePre arg1 arg2) s c (exec (.computePre arg1 arg2) s) := by
  obtain ⟨ar, hchecks, hbody⟩ := h
  exact faultsWith_of_run (by rw [runOf, runComputePre_of_checks hchecks hdest hpend, hbody, error_bind])

/-- A failure of the body with WREG is COMPUTE.ACC's, once its sequencing checks pass (R173). -/
theorem BodyFaults.computeAcc (h : BodyFaults s arg1 arg2 s.wreg c) (hdest : s.destValid = true)
    (hres : s.wregValid = true) (hpend : s.pendwValid = false) :
    FaultsWith (.computeAcc arg1 arg2) s c (exec (.computeAcc arg1 arg2) s) := by
  obtain ⟨ar, hchecks, hbody⟩ := h
  exact faultsWith_of_run (by rw [runOf, runComputeAcc_of_checks hchecks hdest hres hpend, hbody, error_bind])

/-- The destination spaces a policy admits, as a choice by WIDE (R170). -/
theorem destSpaces_eq (p : Policy) : destSpaces p = if p = .wide then anyAcc else anySp := by
  cases p <;> rfl

/-- A DEST other than SENTINEL is checked for its reserved bit and space, then for its rows (R170, 30_encoding R85). -/
theorem checkedDest_faults {la : LocalAddr} (h : decodeLa s.dest = some la) :
    (la.rsv = true ∨ (la.space, la.accum) ∉ destSpaces s.cfgQ.policy → checkedDest s = .error .illegalAddress) ∧
    (la.rsv = false → (la.space, la.accum) ∈ destSpaces s.cfgQ.policy →
      rowsOf s.params la.space < la.row + s.params.dim → checkedDest s = .error .rowOutOfRange) := by
  rw [checkedDest, if_neg (ne_sentinel_of_decodeLa h), checkLa, h]
  simp only
  refine ⟨fun hill => ?_, fun hrsv hadm hrows => ?_⟩
  · by_cases hrsv : la.rsv = false
    · have hadm := hill.resolve_left (by simp [hrsv])
      rw [require_pos hrsv, ok_bind, require_neg hadm, error_bind, error_bind]
    · rw [require_neg hrsv, error_bind, error_bind]
  · rw [require_pos hrsv, ok_bind, require_pos hadm, ok_bind, require_neg (Nat.not_le.2 hrows), error_bind, error_bind]

/-- A DEST that meets R170's conditions passes. -/
theorem exists_checkedDest (h : s.dest = sentinel ∨ ∃ la, decodeLa s.dest = some la ∧ la.rsv = false ∧
    (la.space, la.accum) ∈ destSpaces s.cfgQ.policy ∧ la.row + s.params.dim ≤ rowsOf s.params la.space) :
    ∃ dest, checkedDest s = .ok dest := by
  by_cases hs : s.dest = sentinel
  · exact ⟨none, if_pos hs⟩
  · obtain ⟨la, hla⟩ := h.resolve_left hs
    exact ⟨some la, by rw [checkedDest, if_neg hs, checkLa_ok.2 hla, ok_bind]⟩

/-- A DEST that fails its check is the body's first failure (R170). -/
theorem bodyFaults_of_dest (hops : ComputeOperands s arg1 arg2) (h : checkedDest s = .error c) :
    BodyFaults s arg1 arg2 weight c := by
  obtain ⟨la, -, hchecks⟩ := exists_computeChecks hops
  exact ⟨la.row, hchecks, by rw [computeBody, h, error_bind]⟩

/-- A tile that cannot be read has an undef byte (40_codec R109, 10_state R27). -/
theorem spTile_error {r w : Nat} {e : Cause} (h : spTile s r w = .error e) : e = .uninitRead := by
  rw [spTile, bind_error] at h
  obtain h | ⟨rows, -, h⟩ := h
  · obtain ⟨i, -, hi, -⟩ := gather_error.1 h
    obtain ⟨j, -, hj, -⟩ := gather_error.1 hi
    exact (readSp_error.1 hj).2
  · cases h

/-- An undef byte of operand A or of the bias fails the body with UNINIT_READ, once DEST has passed (R170, 40_codec R109). -/
theorem bodyFaults_of_undef_operand {dest : Option LocalAddr} {row i b : Nat} (hops : ComputeOperands s arg1 arg2)
    (hdest : checkedDest s = .ok dest)
    (hn : NamesRows s arg1 .sp false row s.params.dim ∨ NamesRows s arg2 .sp false row s.params.dim)
    (hi : i < s.params.dim) (hb : b < rowBytes s.params s.cfgEx.width) (hundef : s.spByte (row + i) b = none) :
    BodyFaults s arg1 arg2 weight .uninitRead := by
  obtain ⟨la, hdec, hchecks⟩ := exists_computeChecks hops
  refine ⟨la.row, hchecks, ?_⟩
  rw [computeBody, hdest, ok_bind]
  have hread : spTile s row s.cfgEx.width = .error .uninitRead := spTile_of_undef hi hb hundef
  cases ha : spTile s la.row s.cfgEx.width with
  | error e => rw [error_bind, spTile_error ha]
  | ok ta =>
    obtain ⟨hA, -⟩ | ⟨hD, -⟩ := hn
    · obtain rfl : _ = la := Option.some_inj.1 (hA.symm.trans hdec)
      cases hread.symm.trans ha
    · have hbias : biasTile s (laOf arg2) = .error .uninitRead := by rw [biasTile, hD]; exact hread
      rw [ok_bind, hbias, error_bind]

variable {a d : Nat → Nat → Int} {row : Nat}

/-- An undef byte of an accumulated destination fails the body under PACKED with UNINIT_READ (41_arithmetic R135). -/
theorem ComputeReady.bodyFaults_packed {i b : Nat} (h : ComputeReady s arg1 arg2 a d) (hp : s.cfgQ.policy = .packed)
    (hdest : DestNames s .sp true row) (hi : i < s.params.dim) (hb : b < rowBytes s.params s.cfgSt.width)
    (hundef : s.spByte (row + i) b = none) : BodyFaults s arg1 arg2 weight .uninitRead := by
  obtain ⟨ar, ta, td, hchecks, -, -, hbody⟩ := h.body_packed hp hdest
  exact ⟨ar, hchecks, (hbody weight).trans (packedUpdate_of_undef s.cfgSt.width_cases hi hb hundef)⟩

/-- The body under WIDE fails as its wide update does (41_arithmetic R134). -/
theorem ComputeReady.bodyFaults_wide {accum : Bool} (h : ComputeReady s arg1 arg2 a d) (hp : s.cfgQ.policy = .wide)
    (hdest : DestNames s .acc accum row)
    (hc : wideUpdate s row accum (stepProduct s.params.dim a (tileAt weight) d) = .error c) :
    BodyFaults s arg1 arg2 weight c := by
  obtain ⟨ar, hchecks, hbody⟩ := h.body_wide hp hdest
  exact ⟨ar, hchecks, (hbody weight).trans hc⟩

end

/-- Settles O34: the shared checks fail both commands alike, then each one's sequencing bits, then the body, whose failures
are the same for either weight. -/
theorem computeFaultsInOrder : Obligations.ComputeFaultsInOrder := by
  intro s arg1 arg2 pre acc configured operandOk biasOk admitted destOk destFaults dataFaults
  have hadm : admitted = destSpaces s.cfgQ.policy := (destSpaces_eq _).symm
  have hdestFaults : ∀ faults weight, (∀ c, BodyFaults s arg1 arg2 weight c → faults c) → destFaults faults := by
    intro faults weight hbody la hcfg hop hbias hla
    obtain ⟨hillegal, hrows⟩ := checkedDest_faults hla
    rw [hadm]
    exact ⟨fun h => hbody _ (bodyFaults_of_dest ⟨hcfg, hop, hbias⟩ (hillegal h)),
      fun h1 h2 h3 => hbody _ (bodyFaults_of_dest ⟨hcfg, hop, hbias⟩ (hrows h1 h2 h3))⟩
  have hdataFaults : ∀ faults weight, (∀ c, BodyFaults s arg1 arg2 weight c → faults c) → dataFaults faults weight := by
    intro faults weight hbody
    refine ⟨fun row i b hcfg hop hbias hdest hn hi hb hundef => ?operands, fun a d accum c h =>
      ⟨fun hp hdest i b hi hb hundef => hbody _ (h.bodyFaults_packed hp hdest hi hb hundef), fun hp hdest => ?wide⟩⟩
    case operands =>
      obtain ⟨dest, hdest⟩ := exists_checkedDest (by rw [← hadm]; exact hdest)
      exact hbody _ (bodyFaults_of_undef_operand ⟨hcfg, hop, hbias⟩ hdest hn hi hb hundef)
    case wide =>
      intro old sum i₀ j₀ hi hj hbefore
      obtain ⟨hundef, hover⟩ := wideUpdate_faults hi hj hbefore
      exact ⟨fun h1 h2 => hbody _ (h.bodyFaults_wide hp hdest (hundef h1 h2)),
        fun cur h1 h2 => hbody _ (h.bodyFaults_wide hp hdest (hover cur h1 h2))⟩
  have hchecks : ∀ c, computeChecks s (laOf arg1) (laOf arg2) = .error c → pre c ∧ acc c := fun _ =>
    computes_fault_of_checks
  have hpassed : configured → operandOk → biasOk → ∃ ar, computeChecks s (laOf arg1) (laOf arg2) = .ok ar :=
    fun hcfg hop hbias => (exists_computeChecks ⟨hcfg, hop, hbias⟩).imp' LocalAddr.row fun _ => And.right
  refine ⟨fun h => hchecks _ (computeChecks_of_not_configured h _ _), fun hcfg h => ?illegalA, fun hcfg h hr => ?rowsA,
    fun hcfg hop hne h => ?illegalD, fun hcfg hop h hr => ?rowsD, fun hcfg hop hbias hv => ?noDestination,
    fun hcfg hop hbias hv hpend => ?noWeight, fun hcfg hop hbias hv hres => ?noResident,
    fun hcfg hop hbias hv hres hpend => ?unused, fun hv => ⟨fun hpend => ?bodyPre, fun hres hpend => ?bodyAcc⟩⟩
  case illegalA => exact hchecks _ ((computeChecks_of_operand_fault hcfg _).1 h)
  case rowsA => exact hchecks _ ((computeChecks_of_operand_fault hcfg _).2 h hr)
  case illegalD => exact hchecks _ ((computeChecks_of_bias_fault hcfg hop).1 hne h)
  case rowsD => exact hchecks _ ((computeChecks_of_bias_fault hcfg hop).2 h hr)
  case noDestination => exact (hpassed hcfg hop hbias).elim fun ar h => computes_fault_of_noDestination h hv
  case noWeight => exact (hpassed hcfg hop hbias).elim fun ar h => computePre_fault_of_noWeight h hv hpend
  case noResident => exact (hpassed hcfg hop hbias).elim fun ar h => (computeAcc_fault_of_weights h hv).1 hres
  case unused => exact (hpassed hcfg hop hbias).elim fun ar h => (computeAcc_fault_of_weights h hv).2 hres hpend
  case bodyPre =>
    have hbody : ∀ c, BodyFaults s arg1 arg2 s.pendw c → pre c := fun c h => h.computePre hv hpend
    exact ⟨hdestFaults pre s.pendw hbody, hdataFaults pre s.pendw hbody⟩
  case bodyAcc =>
    have hbody : ∀ c, BodyFaults s arg1 arg2 s.wreg c → acc c := fun c h => h.computeAcc hv hres hpend
    exact ⟨hdestFaults acc s.wreg hbody, hdataFaults acc s.wreg hbody⟩

end Sys2Proof.Machine
end

section
/-! MVIN and MVOUT (44_move R195 to R198): the check of the tile's local address that both begin with, the rest of each
command, and what a tile of MEM reads as after MVOUT has stored it. -/

namespace Sys2Proof.Machine

/-! ### The shared checks, and the rest of each command -/

/-- The checks that MVIN and MVOUT begin with: the precision register, then the local address of the tile (R195, R196). -/
def tileAddress (s : State) (cfg : PrecisionReg) (arg2 : ArgWord) (allowed : List (Space × Bool)) :
    Except Cause LocalAddr := do
  require (cfg.valid = true) .configNotSet
  checkLa s.params (laOf arg2) allowed s.params.dim

/-- The local addresses that MVIN admits (R195). -/
abbrev mvinSpaces : List (Space × Bool) := [(.sp, false), (.acc, false), (.acc, true)]

/-- The local addresses that MVOUT admits (R196). -/
abbrev mvoutSpaces : List (Space × Bool) := [(.sp, false), (.acc, false)]

/-- The elements that MVIN stores in ACC rows from `row` (R195). -/
def mvinElems (s : State) (ma : Nat) (accum : Bool) (row : Nat) : Except Cause Tile :=
  gatherGrid (fun i j => addResident s accum (row + i) j (memField s ma s.cfgLd.width i j)) s.params.dim s.params.dim

/-- The rest of MVIN: its MEM range, its destination data and its write (R195). -/
def mvinBody (s : State) (ma : Nat) (la : LocalAddr) : Except Cause State := do
  let n := rowBytes s.params s.cfgLd.width
  require (MemInRange s.params ma (s.params.dim * n)) .memOutOfRange
  match la.space with
  | .sp => .ok (s.setSp (s.sp.putGrid la.row (fun i b => s.memByte (ma + i * n + b)) n s.params.dim))
  | .acc => do
    let new ← mvinElems s ma la.accum la.row
    .ok (storeAccTile s la.row new)

/-- The source data of MVOUT: the bytes of SP rows, or the packed quantized elements of ACC rows (R196). -/
def mvoutData (s : State) (la : LocalAddr) : Except Cause (List (List Byte)) :=
  let w := s.cfgSt.width
  match la.space with
  | .sp => gatherGrid (fun i b => readSp s (la.row + i) b) s.params.dim (rowBytes s.params w)
  | .acc => do
    let vals ← gatherGrid (fun i j => readAcc s (la.row + i) j) s.params.dim s.params.dim
    .ok (vals.map fun row => packSeq w (row.map fun x => quantize x s.cfgQ.shift.toNat s.cfgQ.relu w))

/-- The rest of MVOUT before its write: CFG_Q, its MEM range and its source data (R196). -/
def mvoutRows (s : State) (ma : Nat) (la : LocalAddr) : Except Cause (List (List Byte)) := do
  require (la.space = .acc → s.cfgQ.valid = true) .configNotSet
  require (MemInRange s.params ma (s.params.dim * rowBytes s.params s.cfgSt.width)) .memOutOfRange
  mvoutData s la

/-- MVIN is the check of its address and then the rest (R195). -/
theorem runMvin_eq (arg1 arg2 : ArgWord) (s : State) :
    runMvin arg1 arg2 s = tileAddress s s.cfgLd arg2 mvinSpaces >>= mvinBody s (memAddr arg1) := by
  rw [tileAddress, bind_assoc]
  rfl

/-- MVOUT is the check of its address, the rest of its checks, and the write of the rows they leave (R196). -/
theorem runMvout_eq (arg1 arg2 : ArgWord) (s : State) :
    runMvout arg1 arg2 s = tileAddress s s.cfgSt arg2 mvoutSpaces >>= fun la =>
      mvoutRows s (memAddr arg1) la >>= fun rows =>
        .ok (storeMemTile s (memAddr arg1) (rowBytes s.params s.cfgSt.width) rows) := by
  simp only [runMvout, tileAddress, mvoutRows, mvoutData, bind_assoc]
  refine bind_congr fun _ => bind_congr fun la => bind_congr fun _ => bind_congr fun _ => ?_
  cases la.space with
  | sp => rfl
  | acc => simp only [bind_assoc, ok_bind]

section
variable {s : State} {cfg : PrecisionReg} {arg2 : ArgWord} {allowed : List (Space × Bool)}

/-- The precision register is checked before the address, and the address for legality before its rows (R195, R196,
30_encoding R85). -/
theorem tileAddress_faults :
    (cfg.valid = false → tileAddress s cfg arg2 allowed = .error .configNotSet) ∧
    (cfg.valid = true → ¬ LegalAddress arg2 allowed → tileAddress s cfg arg2 allowed = .error .illegalAddress) ∧
    (cfg.valid = true → LegalAddress arg2 allowed → ¬ RowsInRange s arg2 s.params.dim →
      tileAddress s cfg arg2 allowed = .error .rowOutOfRange) := by
  refine ⟨fun hcfg => ?_, fun hcfg h => ?_, fun hcfg h hr => ?_⟩
  · rw [tileAddress, require_neg (by simp [hcfg]), error_bind]
  · rw [tileAddress, require_pos hcfg, ok_bind, checkLa_of_not_legal h]
  · rw [tileAddress, require_pos hcfg, ok_bind, checkLa_of_not_rows h hr]

/-- A legal address whose rows are in range passes (R195, R196). -/
theorem exists_tileAddress (hcfg : cfg.valid = true) (h : LegalAddress arg2 allowed)
    (hr : RowsInRange s arg2 s.params.dim) : ∃ la, tileAddress s cfg arg2 allowed = .ok la := by
  obtain ⟨la, hla, -⟩ := checkLa_of_legal h hr
  exact ⟨la, by rw [tileAddress, require_pos hcfg, ok_bind, hla]⟩

/-- An address that names its rows passes with those rows (R195, R196). -/
theorem tileAddress_of_names {space : Space} {accum : Bool} {row : Nat} (hcfg : cfg.valid = true)
    (hn : NamesRows s arg2 space accum row s.params.dim) (hm : (space, accum) ∈ allowed) :
    tileAddress s cfg arg2 allowed = .ok ⟨space, accum, false, row⟩ := by
  rw [tileAddress, require_pos hcfg, ok_bind, checkLa_of_names hn hm]

/-- A legal address of one space and accumulate bit, with its rows in range, names those rows (30_encoding R83, R85). -/
theorem exists_namesRows {space : Space} {accum : Bool} {n : Nat} (h : LegalAddress arg2 [(space, accum)])
    (hr : RowsInRange s arg2 n) : ∃ row, NamesRows s arg2 space accum row n := by
  obtain ⟨⟨space', accum', rsv, row⟩, hd, rfl, hmem⟩ := h
  obtain ⟨rfl, rfl⟩ : space' = space ∧ accum' = accum := by simpa using hmem
  exact ⟨row, hd, hr _ hd⟩

end

/-! ### MVIN (R195) -/

section
variable {s : State} {arg1 arg2 : ArgWord} {row : Nat}

/-- A tile that does not fit in MEM is MVIN's next failure (R195, 20_memory R51). -/
theorem mvinBody_of_not_fits {ma : Nat} (la : LocalAddr)
    (h : ¬ MemInRange s.params ma (s.params.dim * rowBytes s.params s.cfgLd.width)) :
    mvinBody s ma la = .error .memOutOfRange := by
  rw [mvinBody, require_neg h, error_bind]

/-- MVIN of a tile in range into SP rows it names stores the tile's bytes (R195, 20_memory R55). -/
theorem runMvin_of_sp (hcfg : s.cfgLd.valid = true) (hn : NamesRows s arg2 .sp false row s.params.dim)
    (hfit : MemInRange s.params (memAddr arg1) (s.params.dim * rowBytes s.params s.cfgLd.width)) :
    runMvin arg1 arg2 s = .ok (s.setSp (s.sp.putGrid row
      (fun i b => s.memByte (memAddr arg1 + i * rowBytes s.params s.cfgLd.width + b))
      (rowBytes s.params s.cfgLd.width) s.params.dim)) := by
  rw [runMvin_eq, tileAddress_of_names hcfg hn (by decide), ok_bind, mvinBody, require_pos hfit, ok_bind]

/-- MVIN of a tile in range into ACC rows it names collects its elements and stores them (R195). -/
theorem runMvin_of_acc {accum : Bool} (hcfg : s.cfgLd.valid = true) (hn : NamesRows s arg2 .acc accum row s.params.dim)
    (hfit : MemInRange s.params (memAddr arg1) (s.params.dim * rowBytes s.params s.cfgLd.width)) :
    runMvin arg1 arg2 s = mvinElems s (memAddr arg1) accum row >>= fun new => .ok (storeAccTile s row new) := by
  have hm : (Space.acc, accum) ∈ mvinSpaces := by cases accum <;> decide
  rw [runMvin_eq, tileAddress_of_names hcfg hn hm, ok_bind, mvinBody, require_pos hfit, ok_bind]

/-- MVIN's elements when each can be stored: the old value, 0 without the accumulate bit, plus the field (R195). -/
theorem mvinElems_of_inRange {ma : Nat} {accum : Bool} {old : Nat → Nat → Int} (hplain : accum = false → ∀ i j, old i j = 0)
    (haccum : accum = true → ∀ i j, i < s.params.dim → j < s.params.dim → s.accElem (row + i) j = some (old i j) ∧
      inAcc s.params (old i j + memField s ma s.cfgLd.width i j) = true) :
    ∃ new, mvinElems s ma accum row = .ok new ∧ ∀ i j, i < s.params.dim → j < s.params.dim →
      tileAt new i j = old i j + memField s ma s.cfgLd.width i j := by
  have hgrid := gatherGrid_of_forall (m := s.params.dim) (n := s.params.dim)
    (f := fun i j => addResident s accum (row + i) j (memField s ma s.cfgLd.width i j))
    (g := fun i j => old i j + memField s ma s.cfgLd.width i j) fun i j hi hj => addResident_ok.2 <| by
      cases accum with
      | false => exact .inl ⟨rfl, by rw [hplain rfl, zero_add]⟩
      | true => exact .inr ⟨rfl, old i j, (haccum rfl i j hi hj).1, (haccum rfl i j hi hj).2, rfl⟩
  exact ⟨_, hgrid, fun i j hi hj => tileAt_map_range _ _ _ i j hi hj⟩

end

/-- Settles O17: the bytes of the tile stored as a grid of SP bytes. -/
theorem mvinCopiesTileToScratchpad : Obligations.MvinCopiesTileToScratchpad := by
  intro s arg1 arg2 row n hcfg hn hfit
  exact ⟨_, exec_of_ok (runMvin_of_sp hcfg hn hfit), rfl, spByte_setSp_putGrid _ _ _⟩

/-- Settles O18: each element stored is one that `addResident` answers. -/
theorem mvinDecodesTileToAccumulator : Obligations.MvinDecodesTileToAccumulator := by
  intro s arg1 arg2 accum row old w n field hcfg hn hfit hplain haccum
  obtain ⟨new, hnew, hval⟩ := mvinElems_of_inRange (ma := memAddr arg1) hplain haccum
  have hrun : runMvin arg1 arg2 s = .ok (storeAccTile s row new) := by
    rw [runMvin_of_acc hcfg hn hfit, hnew, ok_bind]
  refine ⟨_, exec_of_ok hrun, rfl, fun r j => ?_⟩
  rw [storeAccTile_accElem]
  split_ifs with h
  · rw [hval (r - row) j (by omega) h.2.2]; rfl
  · rfl

/-- Settles O19: the address fails in the check the two commands share, the MEM range in the rest. -/
theorem mvinFaultsInOrder : Obligations.MvinFaultsInOrder := by
  intro s arg1 arg2 faults legal rows
  have hfaults : ∀ c, tileAddress s s.cfgLd arg2 mvinSpaces = .error c → faults c := fun c h =>
    faultsWith_of_run (i := .mvin arg1 arg2) (by rw [runOf, runMvin_eq, h, error_bind])
  obtain ⟨hconfig, hillegal, hrows⟩ := tileAddress_faults (s := s) (cfg := s.cfgLd) (arg2 := arg2) (allowed := mvinSpaces)
  refine ⟨fun h => hfaults _ (hconfig h), fun h hl => hfaults _ (hillegal h hl),
    fun h hl hr => hfaults _ (hrows h hl hr), fun h hl hr hfit => faultsWith_of_run ?_⟩
  obtain ⟨la, hla⟩ := exists_tileAddress h hl hr
  have hbody : mvinBody s (memAddr arg1) la = .error .memOutOfRange := mvinBody_of_not_fits la (Nat.not_le.2 hfit)
  rw [runOf, runMvin_eq, hla, ok_bind, hbody]

/-- Settles O20: the first element in row-major order that `addResident` refuses decides the cause. -/
theorem mvinAccumulateReportsFirstFault : Obligations.MvinAccumulateReportsFirstFault := by
  intro s arg1 arg2 row i₀ j₀ w n field faults hcfg hn hfit hi hj hbefore
  have helem : ∀ c, addResident s true (row + i₀) j₀ (field i₀ j₀) = .error c → faults c := fun c hc => by
    have hgrid : mvinElems s (memAddr arg1) true row = .error c :=
      gatherGrid_eq_error hi hj hc fun i j hjn hlt => by
        obtain ⟨cur, hcur, hin⟩ := hbefore i j hjn hlt
        exact ⟨_, addResident_ok.2 (.inr ⟨rfl, cur, hcur, hin, rfl⟩)⟩
    exact faultsWith_of_run (by rw [runOf, runMvin_of_acc hcfg hn hfit, hgrid, error_bind])
  exact ⟨fun h => helem _ (addResident_of_undef _ h), fun cur h hout => helem _ (addResident_of_overflow h hout)⟩

/-! ### What MVOUT's write leaves in MEM (20_memory R55) -/

section
variable {s : State} {ma n : Nat} {rows : List (List Byte)}

/-- MEM after a tile is stored in it, by the offset in the tile. -/
theorem storeMemTile_memByte (a : Nat) : (storeMemTile s ma n rows).memByte a =
    if ma ≤ a ∧ a < ma + s.params.dim * n then (rows.getD ((a - ma) / n) []).getD ((a - ma) % n) 0 else s.memByte a :=
  Memory.read_writeRange _ _ _ _ _

/-- A byte outside the tile stored is unchanged (R197). -/
theorem storeMemTile_memByte_outside {a : Nat} (h : ¬ (ma ≤ a ∧ a < ma + s.params.dim * n)) :
    (storeMemTile s ma n rows).memByte a = s.memByte a := by
  rw [storeMemTile_memByte, if_neg h]

/-- What a tile stored leaves in its extent does not depend on MEM before (R197). -/
theorem storeMemTile_setMem_memByte (m : Memory) {a : Nat} (h : ma ≤ a ∧ a < ma + s.params.dim * n) :
    (storeMemTile (s.setMem m) ma n rows).memByte a = (storeMemTile s ma n rows).memByte a := by
  rw [storeMemTile_memByte, storeMemTile_memByte, State.setMem_params, if_pos h, if_pos h]

/-- Byte b of row i of the tile stored. -/
theorem storeMemTile_memByte_inside {i b : Nat} (hi : i < s.params.dim) (hb : b < n) :
    (storeMemTile s ma n rows).memByte (ma + i * n + b) = (rows.getD i []).getD b 0 := by
  have hrow : (i + 1) * n ≤ s.params.dim * n := Nat.mul_le_mul_right n hi
  rw [Nat.add_one_mul] at hrow
  have hoffset : ma + i * n + b - ma = b + i * n := by omega
  rw [storeMemTile_memByte, if_pos (by omega), hoffset, Nat.add_mul_div_right _ _ (Nat.zero_lt_of_lt hb),
    Nat.div_eq_of_lt hb, Nat.zero_add, Nat.add_mul_mod_self_right, Nat.mod_eq_of_lt hb]

end

/-! ### MVOUT (R196) -/

section
variable {s : State} {arg1 arg2 : ArgWord} {row : Nat}

/-- An ACC source needs CFG_Q, and any source a MEM range that fits (R196, 20_memory R51). -/
theorem mvoutRows_faults {ma : Nat} {la : LocalAddr} :
    (la.space = .acc → s.cfgQ.valid = false → mvoutRows s ma la = .error .configNotSet) ∧
    ((la.space = .acc → s.cfgQ.valid = true) →
      ¬ MemInRange s.params ma (s.params.dim * rowBytes s.params s.cfgSt.width) →
      mvoutRows s ma la = .error .memOutOfRange) := by
  refine ⟨fun hspace hq => ?_, fun hq hfit => ?_⟩
  · rw [mvoutRows, require_neg (fun h => by simp [h hspace] at hq), error_bind]
  · rw [mvoutRows, require_pos hq, ok_bind, require_neg hfit, error_bind]

/-- With CFG_Q and the MEM range checked, the source data is left (R196). -/
theorem mvoutRows_of_fits {ma : Nat} {la : LocalAddr} (hq : la.space = .acc → s.cfgQ.valid = true)
    (hfit : MemInRange s.params ma (s.params.dim * rowBytes s.params s.cfgSt.width)) :
    mvoutRows s ma la = mvoutData s la := by
  rw [mvoutRows, require_pos hq, ok_bind, require_pos hfit, ok_bind]

/-- The checks and the source data of MVOUT do not depend on MEM (R196). -/
theorem mvoutRows_setMem (ma : Nat) (la : LocalAddr) (m : Memory) : mvoutRows (s.setMem m) ma la = mvoutRows s ma la := rfl

/-- MVOUT of an address that passes stores the rows the rest of its checks leave (R196). -/
theorem runMvout_of_rows {la : LocalAddr} {rows : List (List Byte)}
    (hla : tileAddress s s.cfgSt arg2 mvoutSpaces = .ok la) (hrows : mvoutRows s (memAddr arg1) la = .ok rows) :
    runMvout arg1 arg2 s = .ok (storeMemTile s (memAddr arg1) (rowBytes s.params s.cfgSt.width) rows) := by
  rw [runMvout_eq, hla, ok_bind, hrows, ok_bind]

/-- MVOUT faults as the check of its address does (R196). -/
theorem mvout_faults_of_address {c : Cause} (h : tileAddress s s.cfgSt arg2 mvoutSpaces = .error c) :
    FaultsWith (.mvout arg1 arg2) s c (exec (.mvout arg1 arg2) s) :=
  faultsWith_of_run (by rw [runOf, runMvout_eq, h, error_bind])

/-- MVOUT of an address that passes faults as the rest of its checks do (R196). -/
theorem mvout_faults_of_rows {la : LocalAddr} {c : Cause} (hla : tileAddress s s.cfgSt arg2 mvoutSpaces = .ok la)
    (hrows : mvoutRows s (memAddr arg1) la = .error c) :
    FaultsWith (.mvout arg1 arg2) s c (exec (.mvout arg1 arg2) s) :=
  faultsWith_of_run (by rw [runOf, runMvout_eq, hla, ok_bind, hrows, error_bind])

/-- The source data of defined SP rows is their bytes (R196). -/
theorem mvoutData_of_sp {bytes : Nat → Nat → Byte}
    (h : ∀ i b, i < s.params.dim → b < rowBytes s.params s.cfgSt.width → s.spByte (row + i) b = some (bytes i b)) :
    ∃ rows, mvoutData s ⟨.sp, false, false, row⟩ = .ok rows ∧
      ∀ i b, i < s.params.dim → b < rowBytes s.params s.cfgSt.width → (rows.getD i []).getD b 0 = bytes i b := by
  have hgrid := gatherGrid_of_forall fun i b hi hb => readSp_ok.2 (h i b hi hb)
  refine ⟨_, hgrid, fun i b hi hb => ?_⟩
  have hread := readSp_ok.1 (gatherGrid_getD hgrid 0 hi hb)
  rw [h i b hi hb, Option.some_inj] at hread
  exact hread.symm

/-- The source data of defined ACC rows is `pack_seq` of each quantized row (R196, 41_arithmetic R139). -/
theorem mvoutData_of_acc {x : Nat → Nat → Int}
    (h : ∀ i j, i < s.params.dim → j < s.params.dim → s.accElem (row + i) j = some (x i j)) :
    ∃ rows, mvoutData s ⟨.acc, false, false, row⟩ = .ok rows ∧ ∀ i < s.params.dim, rows.getD i [] =
      packSeq s.cfgSt.width ((List.range s.params.dim).map
        fun j => quantize (x i j) s.cfgQ.shift.toNat s.cfgQ.relu s.cfgSt.width) := by
  have hgrid := gatherGrid_of_forall fun i j hi hj => readAcc_ok.2 (h i j hi hj)
  refine ⟨_, by simp only [mvoutData]; rw [hgrid, ok_bind], fun i hi => ?_⟩
  simp [List.getD_eq_getElem?_getD, hi, Function.comp_def]

/-- An undef source byte or element fails with UNINIT_READ (R196, 10_state R27). -/
theorem mvoutData_of_undef :
    (∀ i b, i < s.params.dim → b < rowBytes s.params s.cfgSt.width → s.spByte (row + i) b = none →
      mvoutData s ⟨.sp, false, false, row⟩ = .error .uninitRead) ∧
    (∀ i j, i < s.params.dim → j < s.params.dim → s.accElem (row + i) j = none →
      mvoutData s ⟨.acc, false, false, row⟩ = .error .uninitRead) := by
  refine ⟨fun i b hi hb h => gatherGrid_readSp_undef hi hb h, fun i j hi hj h => ?_⟩
  simp only [mvoutData]
  rw [gatherGrid_readAcc_undef hi hj h, error_bind]

end

/-- Settles O21: the rows stored are the source bytes. -/
theorem mvoutCopiesScratchpadTile : Obligations.MvoutCopiesScratchpadTile := by
  intro s arg1 arg2 row bytes n hcfg hn hfit hdef
  obtain ⟨rows, hdata, hbytes⟩ := mvoutData_of_sp hdef
  have hrun := runMvout_of_rows (tileAddress_of_names hcfg hn (by decide))
    ((mvoutRows_of_fits (ma := memAddr arg1) (by simp) hfit).trans hdata)
  exact ⟨_, exec_of_ok hrun, rfl, fun i b hi hb => (storeMemTile_memByte_inside hi hb).trans (hbytes i b hi hb),
    fun a => storeMemTile_memByte_outside⟩

/-- `clamp_W` is the identity on its range (40_codec R100). -/
theorem clamp_of_mem_range {w : Nat} {x : Int} (hlo : -2 ^ (w - 1) ≤ x) (hhi : x ≤ 2 ^ (w - 1) - 1) : clamp w x = x := by
  rw [clamp, min_eq_right hhi, max_eq_right hlo]

/-- A quantized element is in the W range, so clamping it again changes nothing (41_arithmetic R139). -/
theorem clamp_quantize (x : Int) (sh : Nat) (relu : Bool) (w : Nat) :
    clamp w (quantize x sh relu w) = quantize x sh relu w :=
  (clamp_range w _).elim clamp_of_mem_range

/-- Each field of a packed row decodes to its value, clamped (40_codec R107, R111). -/
theorem unpackSigned_packSeq {w j k : Nat} (hw : w = 1 ∨ w = 2 ∨ w = 4 ∨ w = 8) (v : Nat → Int) (hj : j < k) :
    unpackSigned ((packSeq w ((List.range k).map v)).getD (j / slots w) 0) (j % slots w) w = clamp w (v j) := by
  refine (dec_seqField_packSeq hw (i := j) (by simpa using hj)).trans ?_
  simp [List.getD_eq_getElem?_getD, hj]

/-- Settles O22: the rows stored are `pack_seq` of the quantized rows, whose fields decode to the elements. -/
theorem mvoutQuantizesAccumulatorTile : Obligations.MvoutQuantizesAccumulatorTile := by
  intro s arg1 arg2 row x w n hcfg hq hlegal hn hfit hdef
  obtain ⟨-, -, hst⟩ := hlegal
  obtain ⟨-, hfull⟩ := hst hcfg
  have hw := s.cfgSt.width_cases
  obtain ⟨rows, hdata, hrows⟩ := mvoutData_of_acc hdef
  have hrun := runMvout_of_rows (tileAddress_of_names hcfg hn (by decide))
    ((mvoutRows_of_fits (ma := memAddr arg1) (fun _ => hq) hfit).trans hdata)
  have hbyte : ∀ i b, i < s.params.dim → b < n →
      (storeMemTile s (memAddr arg1) n rows).memByte (arg1.toNat + i * n + b) =
        (packSeq w ((List.range s.params.dim).map
          fun j => quantize (x i j) s.cfgQ.shift.toNat s.cfgQ.relu w)).getD b 0 := fun i b hi hb =>
    (storeMemTile_memByte_inside hi hb).trans (by rw [hrows i hi])
  refine ⟨_, exec_of_ok hrun, rfl, hbyte, fun i j hi hj => ?_, fun a => storeMemTile_memByte_outside⟩
  exact (congrArg (unpackSigned · _ _) (hbyte i _ hi (byteIndex_lt hw hfull hj))).trans
    ((unpackSigned_packSeq hw _ hj).trans (clamp_quantize _ _ _ _))

/-- Settles O23: the rows MVOUT stores are read without MEM, and fill its extent. -/
theorem mvoutWritesExactlyItsExtent : Obligations.MvoutWritesExactlyItsExtent := by
  intro s arg1 arg2 size
  cases hla : tileAddress s s.cfgSt arg2 mvoutSpaces with
  | error c => exact .inl ⟨c, mvout_faults_of_address hla⟩
  | ok la =>
    cases hrows : mvoutRows s (memAddr arg1) la with
    | error c => exact .inl ⟨c, mvout_faults_of_rows hla hrows⟩
    | ok rows =>
      have hrun := runMvout_of_rows hla hrows
      obtain ⟨-, -, -, -, hfit, -⟩ := runMvout_ok hrun
      refine .inr ⟨_, exec_of_ok hrun, rfl, hfit, fun a => storeMemTile_memByte_outside, fun m => ?_⟩
      have hrunm := runMvout_of_rows (s := s.setMem m) hla ((mvoutRows_setMem _ la m).trans hrows)
      exact ⟨_, exec_of_ok hrunm, fun a hlo hhi => storeMemTile_setMem_memByte m ⟨hlo, hhi⟩⟩

/-- Settles O24: the address fails in the check the two commands share, CFG_Q, the MEM range and the data in the rest. -/
theorem mvoutFaultsInOrder : Obligations.MvoutFaultsInOrder := by
  intro s arg1 arg2 faults legal rows n fits
  have hfaults : ∀ c, tileAddress s s.cfgSt arg2 mvoutSpaces = .error c → faults c := fun _ => mvout_faults_of_address
  have hnamed : ∀ {space row c}, s.cfgSt.valid = true → NamesRows s arg2 space false row s.params.dim →
      mvoutRows s (memAddr arg1) ⟨space, false, false, row⟩ = .error c → faults c := fun {space _ _} hst hn =>
    mvout_faults_of_rows (tileAddress_of_names hst hn (by cases space <;> decide))
  obtain ⟨hconfig, hillegal, hrows⟩ := tileAddress_faults (s := s) (cfg := s.cfgSt) (arg2 := arg2) (allowed := mvoutSpaces)
  refine ⟨fun h => hfaults _ (hconfig h), fun h hl => hfaults _ (hillegal h hl),
    fun h hl hr => hfaults _ (hrows h hl hr), fun h hr hl hq => ?quant, fun h hr hl hfit => ?spRange,
    fun h hr hl hq hfit => ?accRange, fun row i b h hn hfit hi hb hundef => ?spData,
    fun row i j h hn hq hfit hi hj hundef => ?accData⟩
  case quant =>
    obtain ⟨row, hn⟩ := exists_namesRows hl hr
    exact hnamed h hn (mvoutRows_faults.1 rfl hq)
  case spRange =>
    obtain ⟨row, hn⟩ := exists_namesRows hl hr
    exact hnamed h hn (mvoutRows_faults.2 (by simp) hfit)
  case accRange =>
    obtain ⟨row, hn⟩ := exists_namesRows hl hr
    exact hnamed h hn (mvoutRows_faults.2 (fun _ => hq) hfit)
  case spData => exact hnamed h hn ((mvoutRows_of_fits (by simp) hfit).trans (mvoutData_of_undef.1 i b hi hb hundef))
  case accData => exact hnamed h hn ((mvoutRows_of_fits (fun _ => hq) hfit).trans (mvoutData_of_undef.2 i j hi hj hundef))

/-! ### The ACC round trip (R198) -/

/-- A field is known by its signed value (40_codec R102). -/
theorem fieldGet_eq_of_unpackSigned {w t : Nat} {x y : Byte} (hw : w = 1 ∨ w = 2 ∨ w = 4 ∨ w = 8)
    (h : unpackSigned x t w = unpackSigned y t w) : fieldGet x t w = fieldGet y t w := by
  rw [← enc_dec hw (fieldGet_lt x t w), ← enc_dec hw (fieldGet_lt y t w)]
  exact congrArg (enc w) h

/-- A byte is known by its 8/W fields (00_scope R11, 40_codec R104). -/
theorem byte_eq_of_fields {w : Nat} {x y : Byte} (hw : w = 1 ∨ w = 2 ∨ w = 4 ∨ w = 8)
    (h : ∀ t < slots w, fieldGet x t w = fieldGet y t w) : x = y := by
  refine BitVec.eq_of_getLsbD_eq fun k hk => ?_
  have hpos : 0 < w := by omega
  have hslot : k / w < slots w := by
    obtain rfl | rfl | rfl | rfl := hw <;> simp only [slots] <;> omega
  have hbit := congrArg (Nat.testBit · (k % w)) (h (k / w) hslot)
  simpa [fieldGet_testBit, Nat.div_add_mod', Nat.mod_lt k hpos] using hbit

/-- The whole bytes of a row of K fields are known by the fields' signed values (00_scope R11, 40_codec R102). -/
theorem rowByte_eq_of_fields {w k b : Nat} {x y : Nat → Byte} (hw : w = 1 ∨ w = 2 ∨ w = 4 ∨ w = 8)
    (h : ∀ j < k, unpackSigned (x (j / slots w)) (j % slots w) w = unpackSigned (y (j / slots w)) (j % slots w) w)
    (hb : b < k * w / 8) : x b = y b := by
  refine byte_eq_of_fields hw fun t ht => fieldGet_eq_of_unpackSigned hw ?_
  have hj : b * slots w + t < k := by
    obtain rfl | rfl | rfl | rfl := hw <;> simp only [slots] at ht ⊢ <;> omega
  have hfield := h _ hj
  rwa [Nat.add_comm, Nat.add_mul_div_right _ _ (Nat.zero_lt_of_lt ht), Nat.div_eq_of_lt ht, Nat.zero_add,
    Nat.add_mul_mod_self_right, Nat.mod_eq_of_lt ht] at hfield

/-- Quantizing a decoded field at its own width, without shift or ReLU, changes nothing (R198, 41_arithmetic R142). -/
theorem quantize_unpackSigned {w : Nat} (hw : w = 1 ∨ w = 2 ∨ w = 4 ∨ w = 8) (byte : Byte) (t : Nat) :
    quantize (unpackSigned byte t w) 0 false w = unpackSigned byte t w := by
  obtain ⟨hlo, hhi⟩ := dec_range hw (fieldGet_lt byte t w)
  rw [quantize_false, pow_zero, Int.ediv_one]
  exact clamp_of_mem_range hlo hhi

/-- A tile of d rows of d fields, each row whole bytes, is known by the fields' signed values (R199). -/
theorem tileByte_eq_of_fields {w d o : Nat} {x y : Nat → Byte} (hw : w = 1 ∨ w = 2 ∨ w = 4 ∨ w = 8)
    (h : ∀ i < d, ∀ j < d, unpackSigned (x (i * (d * w / 8) + j / slots w)) (j % slots w) w
      = unpackSigned (y (i * (d * w / 8) + j / slots w)) (j % slots w) w)
    (ho : o < d * (d * w / 8)) : x o = y o := by
  have hpos : 0 < d * w / 8 := Nat.pos_of_mul_pos_left (Nat.zero_lt_of_lt ho)
  have hrow : o / (d * w / 8) < d := Nat.div_lt_of_lt_mul (by rwa [Nat.mul_comm])
  have hbyte := rowByte_eq_of_fields (x := fun b => x (o / (d * w / 8) * (d * w / 8) + b))
    (y := fun b => y (o / (d * w / 8) * (d * w / 8) + b)) hw (h _ hrow) (Nat.mod_lt o hpos)
  simpa only [Nat.div_add_mod'] using hbyte

/-- Settles O25: MVIN leaves the decoded fields in ACC, MVOUT packs them unchanged, and the fields determine the bytes. -/
theorem accumulatorRoundTripKeepsBytes : Obligations.AccumulatorRoundTripKeepsBytes := by
  intro s src dst la row size hld hst hwidth hlegal hq hshift hrelu hn hsrc hdst
  have hw := s.cfgLd.width_cases
  obtain ⟨t, ht, hframe, helem⟩ := mvinDecodesTileToAccumulator s src la false row (fun _ _ => 0) hld hn hsrc
    (fun _ _ _ => rfl) (fun h => by cases h)
  generalize t.acc = acc at hframe
  subst hframe
  obtain ⟨u, hu, -, -, hfield, -⟩ := mvoutQuantizesAccumulatorTile { s with acc := acc } dst la row _ hst hq hlegal hn
    (by rw [hwidth]; exact hdst)
    fun i j hi hj => (helem (row + i) j).trans (if_pos ⟨Nat.le_add_right row i, Nat.add_lt_add_left hi row, hj⟩)
  refine ⟨_, u, ht, hu, fun o ho => ?_⟩
  refine tileByte_eq_of_fields (x := fun o => u.memByte (dst.toNat + o)) (y := fun o => s.memByte (src.toNat + o)) hw
    (fun i hi j hj => ?_) ho
  have hout := hfield i j hi hj
  simp only [hwidth, hshift, hrelu, zero_add, Nat.add_sub_cancel_left] at hout
  simp only [← Nat.add_assoc]
  exact hout.trans (quantize_unpackSigned hw _ _)

end Sys2Proof.Machine
end

section
/-! FENCE and FLUSH, and the host fence (45_sync R210 to R212): the step before, at and after a fence is taken, and the steps
that a waiting fence still takes. -/

namespace Sys2Proof.Machine

/-- Settles O16: neither command has a block effect. -/
theorem fenceAndFlushChangeNothing : Obligations.FenceAndFlushChangeNothing :=
  fun _ _ _ => ⟨rfl, rfl⟩

/-! ### The fence packet and its push (R210, R211) -/

section
variable {s : State}

/-- The packet a host fence pushes, as its three words (R210). -/
theorem fencePacket_eq : fencePacket = ⟨0x00000040#32, 0#64, 0#64⟩ := rfl

/-- A FENCE moves no MEM byte, so its packet has no footprint (20_memory R65). -/
theorem footprintOf_fencePacket (p : Params) : footprintOf p fencePacket = none := rfl

/-- A push while the block is halted is discarded (60_exceptions R240). -/
theorem pushPacket_of_halted (h : s.halted = true) (p : Packet) : s.pushPacket p = s := if_pos h

/-- Pushing a fence packet to a running block appends it to Q and to nothing else (R211, 60_exceptions R240). -/
theorem pushPacket_fencePacket (h : s.halted = false) :
    s.pushPacket fencePacket = s.setQueue (s.queue ++ [fencePacket]) := by
  simp [pushPacket_eq, h, footprintOf_fencePacket, State.setQueue]

/-- A push waits exactly when the block is running and Q is full (60_exceptions R240). -/
theorem pushWaits_iff : s.pushWaits = true ↔ s.halted = false ∧ s.params.qdepth ≤ s.queue.length := by
  simp [State.pushWaits]

/-- A push need not wait exactly when the block is halted or Q has room (60_exceptions R240). -/
theorem pushWaits_eq_false : s.pushWaits = false ↔ s.halted = true ∨ s.queue.length < s.params.qdepth := by
  rw [← Bool.not_eq_true, pushWaits_iff, not_and_or, Bool.not_eq_false, Nat.not_le]

/-! ### The step while the host waits, and while it does not (R211, 60_exceptions R242) -/

/-- A fence is done exactly when it waits and the block has nothing left that it could run (R211). -/
theorem fenceDone_iff : s.fenceDone = true ↔ s.hostWait = true ∧ (s.halted = true ∨ s.queue = []) := by
  simp [State.fenceDone, or_comm]

/-- No fence is done while none waits. -/
theorem fenceDone_of_not_waiting (h : s.hostWait = false) : s.fenceDone = false := by simp [State.fenceDone, h]

/-- No fence is done while the block has a packet to run. -/
theorem fenceDone_of_running (hrun : s.halted = false) (hq : s.queue ≠ []) : s.fenceDone = false := by
  simp [State.fenceDone, hrun, hq]

/-- A waiting fence holds every host action but reset (R211, 70_reset R250). -/
theorem hostMustWait_of_waiting {a : HostAction} (h : s.hostWait = true) (ha : a ≠ .reset) : s.hostMustWait a = true := by
  cases a with
  | reset => exact absurd rfl ha
  | push | fence => simp [State.hostMustWait, h]
  | readMem | writeMem | readStatus | readFarg1 | readFarg2 => exact h

/-- While no fence waits, the host must wait with a fence exactly as with a push (R211). -/
theorem hostMustWait_fence (h : s.hostWait = false) : s.hostMustWait .fence = s.pushWaits := by simp [State.hostMustWait, h]

/-- A fence that is done completes, before any other turn (R211). -/
theorem step_of_fenceDone (h : s.fenceDone = true) : step s = .next s.completeFence := if_pos h

/-- A host turn while the host must wait is the block's, and the action stays next (60_exceptions R242). -/
theorem step_of_hostMustWait {a : HostAction} {es : List Event} (hd : s.fenceDone = false) (he : s.events = .host a :: es)
    (hw : s.hostMustWait a = true) : step s = blockStep s := by
  simp [step, systemStep, hd, he, hw]

/-- A host turn while the host need not wait takes the action (60_exceptions R242). -/
theorem step_of_hostAction {a : HostAction} {es : List Event} (hd : s.fenceDone = false) (he : s.events = .host a :: es)
    (hw : s.hostMustWait a = false) : step s = takeAction a (s.setEvents es) := by
  simp [step, systemStep, hd, he, hw]

/-- A block turn is the block's (60_exceptions R242). -/
theorem step_of_blockTurn {es : List Event} (hd : s.fenceDone = false) (he : s.events = .block :: es) :
    step s = blockStep (s.setEvents es) := by
  simp [step, systemStep, hd, he]

/-- With no turn left to come the step is the block's (60_exceptions R242). -/
theorem step_of_noTurn (hd : s.fenceDone = false) (he : s.events = []) : step s = blockStep s := by
  simp [step, systemStep, hd, he]

/-- While no fence waits, a fence that has not to wait for room is taken: its packet is pushed and the wait begins (R211). -/
theorem step_fence {es : List Event} (he : s.events = .host .fence :: es) (hwait : s.hostWait = false)
    (hroom : s.pushWaits = false) : step s = .next ((s.setEvents es).pushPacket fencePacket).startWait :=
  step_of_hostAction (fenceDone_of_not_waiting hwait) he ((hostMustWait_fence hwait).trans hroom)

end

/-- Settles O49: a clause per case of the fence being next, taken, held by a full Q, waiting and done. -/
theorem fenceWaitsForTheQueue : Obligations.FenceWaitsForTheQueue := by
  intro s
  refine ⟨fun es he hwait hrun hroom => ?room, fun es he hwait hrun hfull => ?full, fun es he hwait hhalt => ?halted,
    fun a es he ha hwait hrun hq => ?waiting, fun hwait hidle => step_of_fenceDone (fenceDone_iff.2 ⟨hwait, hidle⟩)⟩
  case room =>
    rw [step_fence he hwait (pushWaits_eq_false.2 (.inr hroom)), pushPacket_fencePacket (s := s.setEvents es) hrun, fencePacket_eq]
    rfl
  case full =>
    exact step_of_hostMustWait (fenceDone_of_not_waiting hwait) he
      ((hostMustWait_fence hwait).trans (pushWaits_iff.2 ⟨hrun, hfull⟩))
  case halted =>
    refine ⟨(s.setEvents es).startWait, ?_, rfl, ?_⟩
    · rw [step_fence he hwait (pushWaits_eq_false.2 (.inl hhalt)), pushPacket_of_halted (s := s.setEvents es) hhalt]
    · rw [hwait]
      exact step_of_fenceDone (fenceDone_iff.2 ⟨rfl, .inl hhalt⟩)
  case waiting =>
    exact step_of_hostMustWait (fenceDone_of_running hrun hq) he (hostMustWait_of_waiting hwait ha)

/-! ### The steps a waiting fence takes (R211, 60_exceptions R242) -/

/-- Every packet runs to a next state, which keeps Q and the host's wait: a command completes or takes the fault entry, and
neither writes these (60_exceptions R226, R227). -/
theorem exists_runPacket (p : Packet) (s : State) :
    ∃ t, runPacket p s = .next t ∧ t.queue = s.queue ∧ t.hostWait = s.hostWait := by
  unfold runPacket
  cases decode p with
  | error e => exact ⟨_, rfl, rfl, rfl⟩
  | ok i =>
    cases hr : runOf i s with
    | ok t => exact ⟨t, exec_of_ok hr, by rw [runOf_frame hr], by rw [runOf_frame hr]⟩
    | error c => exact ⟨_, exec_of_error hr, rfl, rfl⟩

/-- A step during a fence's wait, while the block has a packet to run, is a reset or the block's (R211, 70_reset R250). -/
theorem step_of_waiting_running {s : State} (hwait : s.hostWait = true) (hrun : s.halted = false) (hq : s.queue ≠ []) :
    ∃ es, step s = .next (s.setEvents es).blockReset ∨ step s = blockStep (s.setEvents es) := by
  have hd := fenceDone_of_running hrun hq
  cases he : s.events with
  | nil => exact ⟨s.events, .inr (step_of_noTurn hd he)⟩
  | cons e es =>
    cases e with
    | block => exact ⟨es, .inr (step_of_blockTurn hd he)⟩
    | host a =>
      by_cases ha : a = .reset
      · subst ha
        exact ⟨es, .inl (step_of_hostAction hd he rfl)⟩
      · exact ⟨s.events, .inr (step_of_hostMustWait hd he (hostMustWait_of_waiting hwait ha))⟩

/-- Every step of a waiting fence ends the wait or takes a packet from Q (R211). -/
theorem step_of_waiting {s : State} (hwait : s.hostWait = true) :
    ∃ t, step s = .next t ∧
      ((t.hostWait = false ∧ t.outstanding = []) ∨ (t.hostWait = true ∧ t.queue.length + 1 = s.queue.length)) := by
  by_cases hidle : s.halted = true ∨ s.queue = []
  · exact ⟨_, step_of_fenceDone (fenceDone_iff.2 ⟨hwait, hidle⟩), .inl ⟨rfl, rfl⟩⟩
  rw [not_or, Bool.not_eq_true] at hidle
  obtain ⟨hrun, hne⟩ := hidle
  obtain ⟨p, rest, hq⟩ := List.exists_cons_of_ne_nil hne
  obtain ⟨es, hreset | hblock⟩ := step_of_waiting_running hwait hrun hne
  · exact ⟨_, hreset, .inl ⟨rfl, rfl⟩⟩
  · obtain ⟨t, ht, htq, htw⟩ := exists_runPacket p ((s.setEvents es).setQueue rest)
    rw [blockStep_running (s := s.setEvents es) hrun hq, ht] at hblock
    exact ⟨t, hblock, .inr ⟨htw.trans hwait, by rw [htq, hq]; rfl⟩⟩

/-- A run of one step more is a step and then the run of its next state. -/
theorem run_succ_of_step {s t : State} (h : step s = .next t) (k : Nat) :
    Host.Core.run Sys2Proof.core (k + 1) s = Host.Core.run Sys2Proof.core k t := by
  have hc : Sys2Proof.core.step s = .next t := h
  simp only [Host.Core.run, hc]

/-- Settles O50, by induction on the length of Q: a step of the wait ends it or leaves one packet less. -/
theorem fenceCompletesWithinTheQueue : Obligations.FenceCompletesWithinTheQueue := by
  intro s hwait
  induction hn : s.queue.length using Nat.strong_induction_on generalizing s with
  | h n ih =>
    obtain ⟨t, ht, hdone | ⟨htwait, hlen⟩⟩ := step_of_waiting hwait
    · exact ⟨1, Nat.succ_le_succ (Nat.zero_le n), t, run_succ_of_step ht 0, hdone⟩
    · obtain ⟨k, hk, u, hu, hdone⟩ := ih t.queue.length (by omega) t htwait rfl
      exact ⟨k + 1, by omega, u, (run_succ_of_step ht k).trans hu, hdone⟩

end Sys2Proof.Machine
end

section
/-! The block step and its faults, and what the host does while no fence of its own waits (60_exceptions R226 to R242): the
STATUS word field by field, the read of a fault register, the push, and the access of MEM. -/

namespace Sys2Proof.Machine

/-! ### The block step (O41, O42) -/

/-- Settles O41: with a packet to run no fence completes first, so the step is the block's. -/
theorem stepRunsDecodedInstruction : Obligations.StepRunsDecodedInstruction := by
  intro s p rest i hrun hq hdec
  have hd : s.fenceDone = false := fenceDone_of_running hrun (by simp [hq])
  have hrunPacket : ∀ u, runPacket p u = exec i u := fun u => by rw [runPacket, hdec]
  constructor
  · intro he
    rw [step_of_noTurn hd he, blockStep_running hrun hq, hrunPacket]
    rfl
  · intro es he
    rw [step_of_blockTurn hd he, blockStep_running (s := s.setEvents es) hrun hq, hrunPacket]
    rfl

/-- A block step that halts a running block is the fault entry of the head of Q on the state without it: no completed
command halts, and the encoding that a faulting one records is its packet (60_exceptions R226, R227, 30_encoding R91). -/
theorem blockStep_halts {s t : State} {p : Packet} {rest : List Packet} (hrun : s.halted = false) (hq : s.queue = p :: rest)
    (h : blockStep s = .next t) (ht : t.halted = true) : ∃ c, c ≠ .none ∧ t = (s.setQueue rest).faultEntry c p := by
  obtain ⟨-, rfl⟩ | ⟨p', rest', -, hq', hcase⟩ := blockStep_cases h
  · simp [hrun] at ht
  obtain ⟨rfl, rfl⟩ := List.cons_eq_cons.1 (hq.symm.trans hq')
  obtain ⟨e, -, rfl⟩ | ⟨i, -, hr⟩ | ⟨i, c, hdec, hc, -, rfl⟩ := hcase
  · exact ⟨.illegalCommand, by decide, rfl⟩
  · rw [runOf_frame hr] at ht
    simp [hrun] at ht
  · exact ⟨c, hc, by rw [(encodeInvertsDecode p i hdec).1]⟩

/-- Settles O42: the fault entry, on the state without the packet, is the whole effect. -/
theorem faultsArePrecise : Obligations.FaultsArePrecise := fun _ _ _ _ => blockStep_halts

/-! ### The host's next action while no fence waits (R240, R242) -/

section
variable {s : State} {es : List Event} (hwait : s.hostWait = false)
include hwait

/-- While no fence waits, an action that only a fence could hold is taken (60_exceptions R240, R242). -/
theorem step_of_freeAction {a : HostAction} (he : s.events = .host a :: es) (hfree : s.hostMustWait a = s.hostWait) :
    step s = takeAction a (s.setEvents es) :=
  step_of_hostAction (fenceDone_of_not_waiting hwait) he (hfree.trans hwait)

/-- While no fence waits, a push waits for room alone (60_exceptions R240). -/
theorem hostMustWait_push (p : Packet) : s.hostMustWait (.push p) = s.pushWaits := by simp [State.hostMustWait, hwait]

/-- While no fence waits, a push that has not to wait for room is taken (60_exceptions R240). -/
theorem step_push {p : Packet} (he : s.events = .host (.push p) :: es) (hroom : s.pushWaits = false) :
    step s = .next ((s.setEvents es).pushPacket p) :=
  step_of_hostAction (fenceDone_of_not_waiting hwait) he ((hostMustWait_push hwait p).trans hroom)

/-- A host read of MEM answers the byte and notes a race (60_exceptions R240, 20_memory R66). -/
theorem step_readMem {a : ArgWord} (he : s.events = .host (.readMem a) :: es) (ha : a.toNat < s.params.memSize) :
    step s = .next (((s.setEvents es).noteRace (s.races a.toNat)).reply ((s.memByte a.toNat).setWidth 64)) :=
  (step_of_freeAction hwait he rfl).trans (if_pos ha)

/-- A host write of MEM stores the byte and notes a race (60_exceptions R240, 20_memory R66). -/
theorem step_writeMem {a : ArgWord} {v : Byte} (he : s.events = .host (.writeMem a v) :: es)
    (ha : a.toNat < s.params.memSize) :
    step s = .next (((s.setEvents es).noteRace (s.races a.toNat)).setMem (s.mem.write a.toNat v)) :=
  (step_of_freeAction hwait he rfl).trans (if_pos ha)

end

/-! ### Reads of the fault registers (O46) -/

/-- A one-bit field is the bit at its place. -/
theorem getLsbD_of_extractLsb'_ofBool {n k : Nat} {x : BitVec n} {b : Bool} (h : x.extractLsb' k 1 = BitVec.ofBool b) :
    x.getLsbD k = b := by
  simpa [BitVec.getLsbD_extractLsb'] using congrArg (BitVec.getLsbD · 0) h

/-- The fields of STATUS, from FCMD at the top to HALTED at the bottom (10_state R34). -/
theorem statusWord_fields (s : State) :
    s.statusWord.extractLsb' 32 32 = s.fcmd ∧ s.statusWord.extractLsb' 16 16 = 0#16 ∧
      s.statusWord.extractLsb' 8 8 = s.cause.code ∧ s.statusWord.extractLsb' 2 6 = 0#6 ∧
      s.statusWord.getLsbD 1 = s.busy ∧ s.statusWord.getLsbD 0 = s.halted := by
  obtain ⟨htop, hhalted⟩ := (extractLsb'_eq_append (w := 63) (v := 1)).1 (BitVec.extractLsb'_eq_self (x := s.statusWord))
  obtain ⟨htop, hbusy⟩ := (extractLsb'_eq_append (w := 62) (v := 1)).1 htop
  obtain ⟨htop, hlow⟩ := (extractLsb'_eq_append (w := 56) (v := 6)).1 htop
  obtain ⟨htop, hcause⟩ := (extractLsb'_eq_append (w := 48) (v := 8)).1 htop
  obtain ⟨hfcmd, hhigh⟩ := (extractLsb'_eq_append (w := 32) (v := 16)).1 htop
  exact ⟨hfcmd, hhigh, hcause, hlow, getLsbD_of_extractLsb'_ofBool hbusy, getLsbD_of_extractLsb'_ofBool hhalted⟩

/-- BUSY says that Q is not empty (10_state R34). -/
theorem busy_iff {s : State} : s.busy = true ↔ s.queue ≠ [] := by simp [State.busy]

/-- Settles O46: the three reads are taken as they come, and STATUS is read field by field. -/
theorem hostReadsFaultRegisters : Obligations.HostReadsFaultRegisters := by
  intro s es
  obtain ⟨hfcmd, hhigh, hcause, hlow, hbusy, hhalted⟩ := statusWord_fields s
  refine ⟨fun hwait => ⟨fun he => ?status, fun he => ?farg1, fun he => ?farg2⟩, hhalted, hbusy ▸ busy_iff, hlow,
    hcause, hhigh, hfcmd, by decide⟩
  case status | farg1 | farg2 => exact step_of_freeAction hwait he rfl

/-! ### Pushes (O47) -/

/-- The footprint of a packet, as the list that a push appends (20_memory R65). -/
theorem toList_footprintOf (params : Params) (p : Packet) :
    (footprintOf params p).toList =
      if p.cmd.extractLsb' 0 8 = 0x10#8 ∨ p.cmd.extractLsb' 0 8 = 0x11#8
      then [⟨p.arg1.toNat, params.dim * params.dim⟩] else [] := by
  rw [footprintOf, apply_ite Option.toList]
  rfl

/-- Settles O47: a clause each for the halted block, the full Q and the Q with room. -/
theorem pushAppendsWaitsOrIsDiscarded : Obligations.PushAppendsWaitsOrIsDiscarded := by
  intro s p es he hwait
  refine ⟨fun hhalt => ?halted, fun hrun hfull => ?full, fun hrun hroom => ?room⟩
  case halted =>
    rw [step_push hwait he (pushWaits_eq_false.2 (.inl hhalt)), pushPacket_of_halted (s := s.setEvents es) hhalt]
    rfl
  case full =>
    exact step_of_hostMustWait (fenceDone_of_not_waiting hwait) he
      ((hostMustWait_push hwait p).trans (pushWaits_iff.2 ⟨hrun, hfull⟩))
  case room =>
    rw [step_push hwait he (pushWaits_eq_false.2 (.inr hroom)), pushPacket_eq, toList_footprintOf]
    simp [hrun, State.setEvents]

/-! ### Accesses of MEM (O48) -/

/-- An access races exactly when its byte lies in an outstanding footprint (20_memory R66). -/
theorem races_iff {s : State} {a : Nat} :
    s.races a = true ↔ ∃ f ∈ s.outstanding, f.base ≤ a ∧ a < f.base + f.size := by
  simp [State.races, Footprint.covers]

/-- UNFENCED after an access: as it was, or set by a race (20_memory R66, 10_state R37). -/
theorem noteRace_unfenced_iff {s : State} {a : Nat} :
    (s.noteRace (s.races a)).unfenced = true ↔
      s.unfenced = true ∨ ∃ f ∈ s.outstanding, f.base ≤ a ∧ a < f.base + f.size := by
  rw [State.noteRace, Bool.or_eq_true, races_iff]

/-- Settles O48: both accesses are taken or refused by their address, and note a race alike. -/
theorem hostMemoryAccess : Obligations.HostMemoryAccess := by
  intro s a v es hwait inFootprint
  refine ⟨fun he => ⟨fun ha => ?read, fun ha => ?readOutside⟩, fun he => ⟨fun ha => ?write, fun ha => ?writeOutside⟩⟩
  case read => exact ⟨_, step_readMem hwait he ha, rfl, noteRace_unfenced_iff⟩
  case write => exact ⟨_, step_writeMem hwait he ha, rfl, noteRace_unfenced_iff, byteWritten_write s.mem a.toNat v⟩
  case readOutside => exact (step_of_freeAction hwait he rfl).trans (if_neg (Nat.not_lt.2 ha))
  case writeOutside => exact (step_of_freeAction hwait he rfl).trans (if_neg (Nat.not_lt.2 ha))

end Sys2Proof.Machine
end

section
/-! Block reset and the halted block (70_reset R250 to R254, 60_exceptions R228): what each step of a halted block can change,
and the state that a reset leaves. -/

namespace Sys2Proof.Machine

/-! ### The halted block (O43) -/

/-- Everything of the block in `t` is as in `s`: the two differ at most in MEM, in the host's side of the system and in the
model's own turns and replies. -/
def BlockKept (s t : State) : Prop :=
  t = { s with
    mem := t.mem, hostWait := t.hostWait, outstanding := t.outstanding, unfenced := t.unfenced, events := t.events,
    replies := t.replies }

/-- A block step of a halted block leaves every piece of state as it was (60_exceptions R228, R249). -/
theorem blockStep_next_of_halted {s t : State} (hhalt : s.halted = true) (h : blockStep s = .next t) : t = s :=
  (Host.Outcome.next.inj ((blockStep_idle (.inl hhalt)).symm.trans h)).symm

/-- A host action taken while the block is halted keeps the block, unless it is the reset: a push, the fence's own among
them, is discarded (60_exceptions R228, R240). -/
theorem takeAction_of_halted {a : HostAction} {s t : State} (hhalt : s.halted = true) (h : takeAction a s = .next t) :
    BlockKept s t ∨ (a = .reset ∧ t = s.blockReset) := by
  obtain ⟨p, -, rfl⟩ | ⟨addr, -, -, rfl⟩ | ⟨addr, v, -, -, rfl⟩ | ⟨-, rfl⟩ | ⟨-, rfl⟩ | ⟨-, rfl⟩ | ⟨-, rfl⟩ | hreset :=
    takeAction_cases h
  · rw [pushPacket_of_halted hhalt]; exact .inl rfl
  · exact .inl rfl
  · exact .inl rfl
  · exact .inl rfl
  · exact .inl rfl
  · exact .inl rfl
  · rw [pushPacket_of_halted hhalt]; exact .inl rfl
  · exact .inr hreset

/-- Settles O43: the completion of a fence, the idle block's step and every host action but reset keep the block. -/
theorem onlyResetClearsTheFaultRecord : Obligations.OnlyResetClearsTheFaultRecord := by
  intro s t hhalt h
  obtain ⟨-, rfl⟩ | ⟨-, ⟨-, hb⟩ | ⟨es, -, hb⟩ | ⟨a, es, -, -, hb⟩ | ⟨a, es, he, -, ha⟩⟩ := step_cases h
  · exact .inl rfl
  · exact .inl (blockStep_next_of_halted hhalt hb ▸ rfl)
  · exact .inl (blockStep_next_of_halted (s := s.setEvents es) hhalt hb ▸ rfl)
  · exact .inl (blockStep_next_of_halted hhalt hb ▸ rfl)
  · obtain hkept | ⟨rfl, rfl⟩ := takeAction_of_halted (s := s.setEvents es) hhalt ha
    · exact .inl hkept
    · exact .inr ⟨es, he, rfl⟩

/-! ### The state after reset (O52) -/

/-- Reset is taken from every state in which no fence completes first: nothing else holds it (R250, R252). -/
theorem step_reset {s : State} {es : List Event} (he : s.events = .host .reset :: es) (hd : s.fenceDone = false) :
    step s = .next (s.setEvents es).blockReset :=
  step_of_hostAction hd he rfl

/-- After reset every SP byte is undef (R253, 10_state R38). -/
@[simp] theorem blockReset_spByte (s : State) (r b : Nat) : s.blockReset.spByte r b = none := rfl

/-- After reset every ACC element is undef (R253, 10_state R38). -/
@[simp] theorem blockReset_accElem (s : State) (r j : Nat) : s.blockReset.accElem r j = none := rfl

/-- After reset the host reads STATUS as zero: not halted, not busy, no cause, no command (R253, 10_state R34, R38). -/
@[simp] theorem blockReset_statusWord (s : State) : s.blockReset.statusWord = 0#64 := by
  simp [State.statusWord, State.busy, Cause.code]

/-- Settles O52: the step is the reset, whose state the lemmas of `State.blockReset` give field by field. -/
theorem resetLeavesTheTable : Obligations.ResetLeavesTheTable := by
  intro s es he hd
  exact ⟨_, step_reset he hd, by simp [resetPrecision, resetQuant]⟩

end Sys2Proof.Machine
end
